-- ==== Sys2Proof/Syntax.lean ====
section
/-! DEFINITION. The names of the CORE's commands, phases and instructions (30_encoding.md R70, R73): one constructor of
`Instr` per row of spec/opcode_table.json, and the lines of a command script (R76, R77). -/

namespace Sys2Proof

/-- The four command words of format CMD (30_encoding.md R70). -/
inductive Cmd where
  | nop
  | loadkey
  | encrypt
  | decrypt
  deriving DecidableEq, Repr

/-- The four phases of the controller (10_state.md R24). -/
inductive Phase where
  | idle
  | ks
  | enc
  | dec
  deriving DecidableEq, Repr

/-- The two formats of the opcode table (30_encoding.md R70, R73). -/
inductive Format where
  | cmd
  | ustep
  deriving DecidableEq, Repr

/-- The instructions: four host commands and thirteen micro-step words. None carries an operand: a command's operand
is a whole port sampled at acceptance (30_encoding.md R71), a micro-step's operands are registers. -/
inductive Instr where
  /-- NOP: no command is presented (44_controller.md R161). -/
  | nop
  /-- LOADKEY: take the key on `key_in` (40_key_schedule.md R95). -/
  | loadkey
  /-- ENCRYPT: take the block on `din` for encryption (44_controller.md R163). -/
  | encrypt
  /-- DECRYPT: take the block on `din` for decryption (44_controller.md R164). -/
  | decrypt
  /-- IDLE: wait for a command and accept one if it may (44_controller.md R161, R162, R169). -/
  | idle
  /-- KS0: `RK[0] <- KSRK(KEY, 0)` (40_key_schedule.md R96). -/
  | ks0
  /-- KS1: `RK[1] <- KSRK(KEY, 1)` (R96). -/
  | ks1
  /-- KS2: `RK[2] <- KSRK(KEY, 2)` (R96). -/
  | ks2
  /-- KS3: `RK[3] <- KSRK(KEY, 3)`, `KVALID <- 1`, back to IDLE (R96). -/
  | ks3
  /-- ENC0: encrypt round 0 with `RK[0]` (44_controller.md R165). -/
  | enc0
  /-- ENC1: encrypt round 1 with `RK[1]` (R165). -/
  | enc1
  /-- ENC2: encrypt round 2 with `RK[2]` (R165). -/
  | enc2
  /-- ENC3: encrypt round 3 with `RK[3]`, then completion (R165, R167). -/
  | enc3
  /-- DEC0: decrypt round 0 with `RK[3]` (44_controller.md R166). -/
  | dec0
  /-- DEC1: decrypt round 1 with `RK[2]` (R166). -/
  | dec1
  /-- DEC2: decrypt round 2 with `RK[1]` (R166). -/
  | dec2
  /-- DEC3: decrypt round 3 with `RK[0]`, then completion (R166, R167). -/
  | dec3
  deriving DecidableEq, Repr

/-- An instruction word: its format and its bits. A USTEP word has four bits; a CMD word has two and stands in the low
two of the four, the others 0. -/
structure InstrWord where
  fmt  : Format
  bits : BitVec 4
  deriving DecidableEq, Repr

/-- The host's input port values during one step (10_state.md R30). -/
structure Input where
  rst   : Bool
  cmd   : BitVec 2
  keyIn : BitVec 64
  din   : BitVec 32
  deriving DecidableEq, Repr

/-- One line of a command script (30_encoding.md R76). -/
inductive Line where
  | reset
  | nop
  | loadkey (key : BitVec 64)
  | encrypt (block : BitVec 32)
  | decrypt (block : BitVec 32)
  deriving DecidableEq, Repr

/-- The pseudo-commands of the script notation (30_encoding.md R77). -/
inductive Pseudo where
  | wait
  | nops (n : Nat)
  | new (key : BitVec 64)
  | enc (block : BitVec 32)
  | dec (block : BitVec 32)
  deriving DecidableEq, Repr

end Sys2Proof
end

