-- ==== Sys2Proof/Word.lean ====
section
/-! DEFINITION. The word types of the Daniel-Cipher CORE (00_scope.md R6, R9). Every value is an unsigned bit vector of a
fixed width, bit 0 its least significant bit. -/

namespace Sys2Proof

/-- The master key, `KEY_W` = 64 bits (R6). -/
abbrev Key := BitVec 64

/-- One half of the master key, `KHALF_W` = 32 bits (R6). -/
abbrev KeyHalf := BitVec 32

/-- A plaintext or ciphertext block, `BLOCK_W` = 32 bits (R6). -/
abbrev Block := BitVec 32

/-- Left, Right, F's input and output, and a round key: `HALF_W` = `RK_W` = 16 bits (R6). -/
abbrev Half := BitVec 16

/-- One S-box input or output, `NIB_W` = 4 bits (R6). -/
abbrev Nibble := BitVec 4

end Sys2Proof
end

