-- ==== Sys2Proof/Config.lean ====
section
/-! DEFINITION. What one CORE is fixed at: the fixed parameters (00_scope.md R6), the open parameters as constants with
no body (R7), and the free values of registers that hold no value after reset (10_state.md R27, R33).

Mark: DESIGN CHOICE (logs 1, 3, 4, 13). Nothing in Lean can evaluate these constants, so what is proved holds for every
value of them. -/

namespace Sys2Proof

/-- The two lookup tables as raw contents (00_scope.md R7): `SBOX[0..15]`, and `PBOX1[0..15]` in the stored form whose
entries are target positions written 1 to 16 (41_sbox_pbox.md R113). Five bits are needed to hold 16 (20_memory.md R51).
Well-formedness (R8) is `Tables.Wf`. -/
structure Tables where
  sbox  : Vector (BitVec 4) 16
  pbox1 : Vector (BitVec 5) 16
  deriving DecidableEq, Repr

namespace Config

/-- `KEY_W` (R6). -/
def keyW : Nat := 64
/-- `BLOCK_W` (R6). -/
def blockW : Nat := 32
/-- `HALF_W` (R6). -/
def halfW : Nat := 16
/-- `RK_W` (R6). -/
def rkW : Nat := 16
/-- `NROUNDS` (R6). -/
def nRounds : Nat := 4
/-- `KHALF_W` (R6). -/
def kHalfW : Nat := 32
/-- `NIB_W` (R6). -/
def nibW : Nat := 4
/-- `NNIB` (R6). -/
def nNib : Nat := 4

/-- `KS_ROT[0..3]`: the left-rotation amount for round key `i` (R6). -/
def ksRot : Fin 4 → Nat
  | 0 => 3
  | 1 => 5
  | 2 => 7
  | 3 => 9

/-- `KS_CONST[0..3]`: the constant XORed into round key `i` (R6). -/
def ksConst : Fin 4 → Nat
  | 0 => 1
  | 1 => 2
  | 2 => 3
  | 3 => 4

/-- `KS_HALF[0..3]`: is round key `i` taken from the left half of the key (R6)? -/
def ksFromLeft : Fin 4 → Bool
  | 0 => true
  | 1 => true
  | 2 => false
  | 3 => false

/-- OPEN: the hardware's S-box, a bijection on 0..15 (R7, R8; 92 D1). DESIGN CHOICE (log 1): a constant with no body. -/
opaque sboxPerm : Equiv.Perm (Fin 16)

/-- OPEN: the hardware's P-box as 0-indexed targets, a bijection on 0..15 (R7, R8; 92 D2). DESIGN CHOICE (log 1). -/
opaque pboxPerm : Equiv.Perm (Fin 16)

/-- OPEN: `STEP_CYCLES` less one, as a function of the step kind (R7; 92 D9). No rule reads it. DESIGN CHOICE (log 13). -/
opaque stepCyclesPred : Instr → Nat

/-- `STEP_CYCLES`: a positive number of clock cycles for each kind of step (R7). No rule reads it (log 13). -/
def stepCycles (i : Instr) : Nat := stepCyclesPred i + 1

/-- The value `KEY` holds after reset step number `n` and until it is written (10_state.md R33). DESIGN CHOICE (log 3). -/
opaque unwrittenKey : Nat → BitVec 64

/-- The value `RK[i]` holds after reset step number `n` (R33). DESIGN CHOICE (log 3). -/
opaque unwrittenRk : Nat → Fin 4 → BitVec 16

/-- The value `L` holds after reset step number `n` (R33). DESIGN CHOICE (log 3). -/
opaque unwrittenL : Nat → BitVec 16

/-- The value `R` holds after reset step number `n` (R33). DESIGN CHOICE (log 3). -/
opaque unwrittenR : Nat → BitVec 16

/-- The value the register `DOUT` holds after reset step number `n` (R33). DESIGN CHOICE (log 3). -/
opaque unwrittenDout : Nat → BitVec 32

/-- What read number `n` of the `dout` port draws while `DOUT` has not been written since reset (10_state.md R27): any
value, possibly another at every read. DESIGN CHOICE (log 4). -/
opaque doutDraw : Nat → BitVec 32

/-- The table contents that two bijections stand for: entry `n` of the S-box is `s n`, entry `i` of `PBOX1` is
`p i + 1`. -/
def tablesOf (s p : Equiv.Perm (Fin 16)) : Tables where
  sbox := Vector.ofFn fun n => BitVec.ofFin (s n)
  pbox1 := Vector.ofFn fun i => BitVec.ofNat 5 ((p i).val + 1)

/-- The hardware's tables: the same constants in every CORE, written by nothing (10_state.md R32). -/
def tables : Tables := tablesOf sboxPerm pboxPerm

end Config

end Sys2Proof
end

