-- ==== Sys2Proof/Machine/State.lean ====
section
/-! DEFINITION. The architectural state of one CORE (10_state.md R20 to R29), plain data, and the state after reset
(R33, 70_reset_and_hazards.md R220). -/

namespace Sys2Proof.Machine

/-- The round-key file `RK[0..3]` (10_state.md R21, 20_memory.md R52); also the source's RoundKeySet. -/
structure RoundKeys where
  k0 : BitVec 16
  k1 : BitVec 16
  k2 : BitVec 16
  k3 : BitVec 16
  deriving DecidableEq, Repr

/-- The state. The first eleven fields are the spec's tuple S; the last three are the model's own (logs 3, 4, 5). -/
structure State where
  /-- `KEY` (R20). -/
  key : BitVec 64
  /-- `RK[0..3]` (R21). -/
  rk : RoundKeys
  /-- `L` (R22). -/
  l : BitVec 16
  /-- `R` (R22). -/
  r : BitVec 16
  /-- `DOUT` (R23). -/
  dout : BitVec 32
  /-- `PHASE` (R24). -/
  phase : Phase
  /-- `RND` (R24). -/
  rnd : BitVec 2
  /-- `KVALID` (R25). -/
  kvalid : Bool
  /-- `DONE` (R26). -/
  done : Bool
  /-- `FAULT` (R28). -/
  fault : Bool
  /-- `CAUSE` (R28). -/
  cause : BitVec 2
  /-- The model's own: has `DOUT` been written since reset (R27)? DESIGN CHOICE (log 4). -/
  doutHeld : Bool
  /-- The model's own: how many reset steps have been taken. It picks the free values of registers that hold no value.
  DESIGN CHOICE (log 3). -/
  resets : Nat
  /-- The model's own: the input port values the host will present, the next step's first (30_encoding.md R76). After
  the last one the host presents NOP. DESIGN CHOICE (log 5). -/
  script : List Input
  deriving DecidableEq, Repr

/-- Why a step stops with a fault: never. Every protocol violation is recorded in `FAULT` and `CAUSE` and the step
completes (44_controller.md R160, 60_exceptions.md R192), so no meaning raises one (log 16). -/
inductive Fault where
  deriving DecidableEq, Repr

/-- Why a step is refused. -/
inductive Refusal where
  /-- Raised by a refused arm of `exec` for an instruction that has no meaning yet. Safe. No arm does so. -/
  | notModelled (mnemonic : String)
  /-- Raised by `step` where `PHASE ++ RND` is `0001`, `0010` or `0011`: the hardware is given no meaning there
  (30_encoding.md R74, 93 U11). Unreachable from reset. Safe. -/
  | illegalUstep
  /-- Raised by `State.gate` for a state that breaks 10_state.md R34 (93 U11 to U13). No step raises it. Safe. -/
  | illFormedState
  /-- Raised by `admitTables` for table contents that break 00_scope.md R8 (93 U3). No step raises it. Safe. -/
  | illFormedTables
  deriving DecidableEq, Repr

/-- The state after reset step number `n`, with what the host has left to present. The control bits are as the table of
R33 says. The data registers hold no value there: each holds a constant of Config that nothing can evaluate, so that
nothing can be proved of it. DESIGN CHOICE (log 3). -/
def State.afterReset (n : Nat) (script : List Input) : State where
  key := Config.unwrittenKey n
  rk := ⟨Config.unwrittenRk n 0, Config.unwrittenRk n 1, Config.unwrittenRk n 2, Config.unwrittenRk n 3⟩
  l := Config.unwrittenL n
  r := Config.unwrittenR n
  dout := Config.unwrittenDout n
  phase := .idle
  rnd := 0
  kvalid := false
  done := false
  fault := false
  cause := 0
  doutHeld := false
  resets := n
  script := script

/-- The machine right after its first reset step (R33, 70_reset_and_hazards.md R222), with no script placed. -/
def State.reset : State := State.afterReset 0 []

end Sys2Proof.Machine
end

