-- ==== Sys2Proof/WellFormed.lean ====
section
/-! DEFINITION. Well-formedness of what comes in from outside: instruction words (30_encoding.md R72, R74), table contents
(00_scope.md R8) and script words (R76). The well-formedness of a state (10_state.md R34) is Machine/Invariant.lean. -/

namespace Sys2Proof

/-- An instruction is well formed when it is a row of the opcode table. No row has an operand field (R70, R73), so there
is nothing to check beyond the constructor; each is named so that a new row cannot slip past. -/
def Instr.wf : Instr → Bool
  | .nop | .loadkey | .encrypt | .decrypt => true
  | .idle => true
  | .ks0 | .ks1 | .ks2 | .ks3 => true
  | .enc0 | .enc1 | .enc2 | .enc3 => true
  | .dec0 | .dec1 | .dec2 | .dec3 => true

/-- A CMD word has two bits: the two above them are 0 (R70). A USTEP word is any four bits but `0001`, `0010`, `0011`
(R74). -/
def InstrWord.wf (w : InstrWord) : Bool :=
  match w.fmt with
  | .cmd => decide (w.bits.toNat < 4)
  | .ustep => !(decide (w.bits = 0b0001#4) || decide (w.bits = 0b0010#4) || decide (w.bits = 0b0011#4))

/-- R8 (a): every value 0..15 occurs exactly once among `SBOX[0..15]`. -/
abbrev Tables.SboxWf (t : Tables) : Prop :=
  ∀ v : Fin 16, t.sbox.toList.count (BitVec.ofFin v) = 1

/-- R8 (b): every value 1..16 occurs exactly once among `PBOX1[0..15]`, so that no entry is out of range. -/
abbrev Tables.PboxWf (t : Tables) : Prop :=
  ∀ v : Fin 16, t.pbox1.toList.count (BitVec.ofNat 5 (v.val + 1)) = 1

/-- R8: a configuration is well formed. -/
abbrev Tables.Wf (t : Tables) : Prop := t.SboxWf ∧ t.PboxWf

/-- The ports an input line's command ignores are written as zero (R76): `key_in` but for LOADKEY, `din` but for ENCRYPT
and DECRYPT, everything under `rst`. -/
def Input.canonical (a : Input) : Bool :=
  if a.rst then a.cmd == 0#2 && a.keyIn == 0#64 && a.din == 0#32
  else (a.cmd == 0b01#2 || a.keyIn == 0#64) && (a.cmd == 0b10#2 || a.cmd == 0b11#2 || a.din == 0#32)

end Sys2Proof
end

