-- ==== Sys2Proof/Decode.lean ====
section
/-! DEFINITION. Decoding and encoding of instruction words (30_encoding.md R70, R72 to R76): command words, micro-step
words, the opcode table's words, and the 99-bit words of a command script. Decoding is total and rejects by name. -/

namespace Sys2Proof

/-- Why a word is no instruction. -/
inductive DecodeError where
  /-- A CMD word has two bits (R70) and a bit above them is set. -/
  | commandTooWide
  /-- The micro-step words `0001`, `0010`, `0011` have no meaning (R74). -/
  | illegalUstep
  deriving DecidableEq, Repr

/-- The command word on the `cmd` port: total on the four values (R70). -/
def decodeCmd (w : BitVec 2) : Cmd :=
  if w = 0b00#2 then .nop
  else if w = 0b01#2 then .loadkey
  else if w = 0b10#2 then .encrypt
  else .decrypt

/-- The code of a command (R70). -/
def encodeCmd : Cmd → BitVec 2
  | .nop => 0b00#2
  | .loadkey => 0b01#2
  | .encrypt => 0b10#2
  | .decrypt => 0b11#2

/-- The table row of a command (R70). -/
def Cmd.instr : Cmd → Instr
  | .nop => .nop
  | .loadkey => .loadkey
  | .encrypt => .encrypt
  | .decrypt => .decrypt

/-- The code of a phase (10_state.md R24). -/
def Phase.code : Phase → BitVec 2
  | .idle => 0b00#2
  | .ks => 0b01#2
  | .enc => 0b10#2
  | .dec => 0b11#2

/-- The phase a code stands for (R24). -/
def Phase.ofCode (w : BitVec 2) : Phase :=
  if w = 0b00#2 then .idle
  else if w = 0b01#2 then .ks
  else if w = 0b10#2 then .enc
  else .dec

/-- The micro-step word `PHASE ++ RND` (R73); IDLE with `RND` not 0 is rejected (R74). -/
def decodeUstep (phase : Phase) (rnd : BitVec 2) : Except DecodeError Instr :=
  match phase with
  | .idle => if rnd = 0 then .ok .idle else .error .illegalUstep
  | .ks => .ok (if rnd = 0 then .ks0 else if rnd = 1 then .ks1 else if rnd = 2 then .ks2 else .ks3)
  | .enc => .ok (if rnd = 0 then .enc0 else if rnd = 1 then .enc1 else if rnd = 2 then .enc2 else .enc3)
  | .dec => .ok (if rnd = 0 then .dec0 else if rnd = 1 then .dec1 else if rnd = 2 then .dec2 else .dec3)

/-- The high two bits of a micro-step word: the code of `PHASE` (R73). -/
def ustepPhase (w : BitVec 4) : Phase := Phase.ofCode (w.extractLsb' 2 2)

/-- The low two bits of a micro-step word: `RND` (R73). -/
def ustepRnd (w : BitVec 4) : BitVec 2 := w.extractLsb' 0 2

/-- Decode an instruction word of either format. -/
def decode (w : InstrWord) : Except DecodeError Instr :=
  match w.fmt with
  | .cmd => if w.bits.toNat < 4 then .ok (decodeCmd (w.bits.setWidth 2)).instr else .error .commandTooWide
  | .ustep => decodeUstep (ustepPhase w.bits) (ustepRnd w.bits)

/-- The format of an instruction's row. -/
def Instr.fmt : Instr → Format
  | .nop | .loadkey | .encrypt | .decrypt => .cmd
  | .idle | .ks0 | .ks1 | .ks2 | .ks3 => .ustep
  | .enc0 | .enc1 | .enc2 | .enc3 => .ustep
  | .dec0 | .dec1 | .dec2 | .dec3 => .ustep

/-- The word of an instruction, from the tables of R70 and R73. -/
def encode : Instr → InstrWord
  | .nop => ⟨.cmd, 0b0000#4⟩
  | .loadkey => ⟨.cmd, 0b0001#4⟩
  | .encrypt => ⟨.cmd, 0b0010#4⟩
  | .decrypt => ⟨.cmd, 0b0011#4⟩
  | .idle => ⟨.ustep, 0b0000#4⟩
  | .ks0 => ⟨.ustep, 0b0100#4⟩
  | .ks1 => ⟨.ustep, 0b0101#4⟩
  | .ks2 => ⟨.ustep, 0b0110#4⟩
  | .ks3 => ⟨.ustep, 0b0111#4⟩
  | .enc0 => ⟨.ustep, 0b1000#4⟩
  | .enc1 => ⟨.ustep, 0b1001#4⟩
  | .enc2 => ⟨.ustep, 0b1010#4⟩
  | .enc3 => ⟨.ustep, 0b1011#4⟩
  | .dec0 => ⟨.ustep, 0b1100#4⟩
  | .dec1 => ⟨.ustep, 0b1101#4⟩
  | .dec2 => ⟨.ustep, 0b1110#4⟩
  | .dec3 => ⟨.ustep, 0b1111#4⟩

/-- The instruction word that `nbits` bits of value `w` stand for, numbered as spec/opcode_table.json numbers them. Two
bits are a CMD word and four bits a USTEP word. The table's rows counted in whole bytes have eight bits in both formats:
then a value below 4 is read as a command and a value from 4 to 15 as a micro-step, which tells all rows apart but NOP
and IDLE, whose words are both 0. DESIGN CHOICE (log 7): 0 is read as NOP. -/
def tableWord (nbits w : Nat) : Option InstrWord :=
  if nbits = 2 then (if w < 4 then some ⟨.cmd, BitVec.ofNat 4 w⟩ else none)
  else if nbits = 4 then (if w < 16 then some ⟨.ustep, BitVec.ofNat 4 w⟩ else none)
  else if w < 4 then some ⟨.cmd, BitVec.ofNat 4 w⟩
  else if w < 16 then some ⟨.ustep, BitVec.ofNat 4 w⟩
  else none

/-- The instruction the decoder reads from a word of the opcode table; none where it refuses. -/
def decodeTableWord (nbits w : Nat) : Option Instr :=
  match tableWord nbits w with
  | none => none
  | some iw =>
    match decode iw with
    | .ok i => some i
    | .error _ => none

/-- The 99-bit word `rst ++ cmd ++ key_in ++ din` of one step's inputs (R76). -/
def Input.word (a : Input) : BitVec 99 :=
  BitVec.ofBool a.rst ++ (a.cmd ++ (a.keyIn ++ a.din))

/-- The input port values a 99-bit word stands for (R76). -/
def Input.ofWord (w : BitVec 99) : Input where
  rst := w.getLsbD 98
  cmd := w.extractLsb' 96 2
  keyIn := w.extractLsb' 32 64
  din := w.extractLsb' 0 32

/-- The input port values of a script line, ignored ports written as zero (R76). -/
def Line.input : Line → Input
  | .reset => ⟨true, 0b00#2, 0, 0⟩
  | .nop => ⟨false, 0b00#2, 0, 0⟩
  | .loadkey k => ⟨false, 0b01#2, k, 0⟩
  | .encrypt b => ⟨false, 0b10#2, 0, b⟩
  | .decrypt b => ⟨false, 0b11#2, 0, b⟩

/-- The script line that given port values present: ignored ports are not looked at (R76). -/
def Line.ofInput (a : Input) : Line :=
  if a.rst then .reset
  else
    match decodeCmd a.cmd with
    | .nop => .nop
    | .loadkey => .loadkey a.keyIn
    | .encrypt => .encrypt a.din
    | .decrypt => .decrypt a.din

/-- The 99-bit encoding of a script line (R76). -/
def Line.word (l : Line) : BitVec 99 := l.input.word

/-- The script line a 99-bit word presents. Total: every word is some line (R70, R72). -/
def Line.ofWord (w : BitVec 99) : Line := Line.ofInput (Input.ofWord w)

end Sys2Proof
end

