-- ==== Sys2Proof/Machine/KeySchedule.lean ====
section
/-! DEFINITION. The key schedule as functions (40_key_schedule.md R90 to R93), and access to the round-key file
(20_memory.md R52). -/

namespace Sys2Proof.Machine

/-- The read `RK[i]` (20_memory.md R52). -/
def RoundKeys.get (rk : RoundKeys) : Fin 4 → Half
  | 0 => rk.k0
  | 1 => rk.k1
  | 2 => rk.k2
  | 3 => rk.k3

/-- The write `RK[i] <- v` (20_memory.md R52). -/
def RoundKeys.set (rk : RoundKeys) (i : Fin 4) (v : Half) : RoundKeys :=
  match i with
  | 0 => { rk with k0 := v }
  | 1 => { rk with k1 := v }
  | 2 => { rk with k2 := v }
  | 3 => { rk with k3 := v }

/-- `ROTL32(v, s)` for `0 < s < 32` (R90): the left shift on the unbounded integer, the right shift logical, cut to 32
bits. Outside that range the spec gives no meaning and no rule evaluates it (log 14). -/
def rotl32 (v : KeyHalf) (s : Nat) : KeyHalf :=
  BitVec.ofNat 32 ((v.toNat <<< s) ||| (v.toNat >>> (32 - s)))

/-- `leftHalf(key) = key[63:32]` (R91). -/
def leftHalf (key : Key) : KeyHalf := key.extractLsb' 32 32

/-- `rightHalf(key) = key[31:0]` (R91). -/
def rightHalf (key : Key) : KeyHalf := key.extractLsb' 0 32

/-- The half round key `i` is taken from (R92). -/
def ksHalf (key : Key) (i : Fin 4) : KeyHalf := if i.val < 2 then leftHalf key else rightHalf key

/-- The rotation amount for round key `i` (R92). -/
def ksAmount (i : Fin 4) : Nat := if i.val < 2 then 3 + 2 * i.val else 7 + 2 * (i.val - 2)

/-- `KSRK(key, i)` (R92): rotate the half as split from the key, XOR `i + 1` on 32 bits, keep the low 16. -/
def ksrk (key : Key) (i : Fin 4) : Half :=
  (rotl32 (ksHalf key i) (ksAmount i) ^^^ BitVec.ofNat 32 (i.val + 1)).setWidth 16

/-- `KeySchedule(key)` (R93). -/
def keySchedule (key : Key) : RoundKeys := ⟨ksrk key 0, ksrk key 1, ksrk key 2, ksrk key 3⟩

end Sys2Proof.Machine
end

