-- ==== Sys2Proof/Machine/SPBox.lean ====
section
/-! DEFINITION. The substitution and permutation stages (41_sbox_pbox.md R110 to R115), over any table contents. -/

namespace Sys2Proof.Machine

/-- `nib(x, i) = x[4i+3 : 4i]` (R110). -/
def nib (x : Half) (i : Fin 4) : Nibble := x.extractLsb' (4 * i.val) 4

/-- The read `SBOX[n]` (R112, 20_memory.md R50): total, no side effect. -/
def sboxRead (t : Tables) (n : Nibble) : Nibble := t.sbox[n.toFin]

/-- `SUB(x)` (R111). -/
def sub (t : Tables) (x : Half) : Half :=
  sboxRead t (nib x 3) ++ sboxRead t (nib x 2) ++ sboxRead t (nib x 1) ++ sboxRead t (nib x 0)

/-- `PBOX0[i] = PBOX1[i] - 1` (R113), as a bit position. On an ill-formed table the subtraction and the cut to four bits
keep it total (R8). -/
def pbox0 (t : Tables) (i : Fin 16) : Fin 16 := ((t.pbox1[i] - 1#5).setWidth 4).toFin

/-- One turn of R114's loop: if bit `i` of `y` is 1, set bit `PBOX0[i]` of `p`. -/
def permStep (t : Tables) (y : Half) (p : Half) (i : Fin 16) : Half :=
  if y.getLsbD i.val then p ||| BitVec.twoPow 16 (pbox0 t i).val else p

/-- `PERM(y)` in the source's scatter form (R114): the table is indexed by the source position and gives the target. -/
def perm (t : Tables) (y : Half) : Half :=
  [0, 1, 2, 3, 4, 5, 6, 7, 8, 9, 10, 11, 12, 13, 14, 15].foldl (permStep t y) 0x0000#16

/-- `PINV[j]`, the index `i` with `PBOX0[i] = j` (R115); 0 where an ill-formed table has none. -/
def pinv (t : Tables) (j : Fin 16) : Fin 16 :=
  (([0, 1, 2, 3, 4, 5, 6, 7, 8, 9, 10, 11, 12, 13, 14, 15] : List (Fin 16)).find? fun i => pbox0 t i == j).getD 0

end Sys2Proof.Machine
end

