-- ==== Sys2Proof/Machine/Feistel.lean ====
section
/-! DEFINITION. The F-function (42_f_function.md R130, R131) and the Feistel round, encryption and decryption as
functions (43_feistel_round.md R140 to R145), over any table contents. -/

namespace Sys2Proof.Machine

/-- `MIX(p, k)`: addition modulo 65536, not XOR (R130). -/
def mix (p k : Half) : Half := p + k

/-- `F(x, k)`: substitute, permute, add the round key (R131). -/
def fFunction (t : Tables) (x k : Half) : Half :=
  let substituted := sub t x
  let permuted := perm t substituted
  mix permuted k

/-- `EncRound((L, R), k)` (R141). -/
def encRound (t : Tables) (lr : Half × Half) (k : Half) : Half × Half :=
  (lr.2, lr.1 ^^^ fFunction t lr.2 k)

/-- `DecRound((L, R), k)` (R142). -/
def decRound (t : Tables) (lr : Half × Half) (k : Half) : Half × Half :=
  (lr.2 ^^^ fFunction t lr.1 k, lr.1)

/-- A block splits into Left, bits 31..16, and Right, bits 15..0 (R140). -/
def splitBlock (b : Block) : Half × Half := (b.extractLsb' 16 16, b.extractLsb' 0 16)

/-- Two halves join into `Left ++ Right` (R140). -/
def joinBlock (lr : Half × Half) : Block := lr.1 ++ lr.2

/-- The pair `(Ln, Rn)` of R144: the halves after the first `n` encryption rounds. -/
def encPair (t : Tables) (rk : RoundKeys) (p : Block) : Nat → Half × Half
  | 0 => splitBlock p
  | n + 1 => encRound t (encPair t rk p n) (rk.get (Fin.ofNat 4 n))

/-- The pair `(Ln, Rn)` of R145: the halves after the first `n` decryption rounds. -/
def decPair (t : Tables) (rk : RoundKeys) (c : Block) : Nat → Half × Half
  | 0 => splitBlock c
  | n + 1 => decRound t (decPair t rk c n) (rk.get (3 - Fin.ofNat 4 n))

/-- `Encrypt(rk, P)` (R144). -/
def encryptBlock (t : Tables) (rk : RoundKeys) (p : Block) : Block :=
  let s0 := splitBlock p
  let s1 := encRound t s0 (rk.get 0)
  let s2 := encRound t s1 (rk.get 1)
  let s3 := encRound t s2 (rk.get 2)
  let s4 := encRound t s3 (rk.get 3)
  joinBlock s4

/-- `Decrypt(rk, C)` (R145): the round keys in reverse order. -/
def decryptBlock (t : Tables) (rk : RoundKeys) (c : Block) : Block :=
  let s0 := splitBlock c
  let s1 := decRound t s0 (rk.get 3)
  let s2 := decRound t s1 (rk.get 2)
  let s3 := decRound t s2 (rk.get 1)
  let s4 := decRound t s3 (rk.get 0)
  joinBlock s4

end Sys2Proof.Machine
end

