-- ==== Sys2Proof/Machine/Operands.lean ====
section
/-! DEFINITION. Where a step's operands come from: the input ports (10_state.md R30) and the slices of them
(30_encoding.md R71). There is no other operand form: no field, no immediate, no address. -/

namespace Sys2Proof.Machine

/-- What the host presents once its script has ended: NOP, with zero on the ports NOP ignores. DESIGN CHOICE (log 5). -/
def idleInput : Input := Line.nop.input

/-- The input port values `k` steps from now. -/
def State.inputAt (s : State) (k : Nat) : Input := s.script.getD k idleInput

/-- The input port values of this step (10_state.md R30). -/
def State.input (s : State) : Input := s.inputAt 0

/-- The command on the `cmd` port in this step (30_encoding.md R70). -/
def State.command (s : State) : Cmd := decodeCmd s.input.cmd

/-- LOADKEY's operand: `key_in`, whole (R71). -/
def State.keyOperand (s : State) : Key := s.input.keyIn

/-- ENCRYPT's and DECRYPT's operand: `din`, split into Left and Right (R71, 43_feistel_round.md R140). -/
def State.blockOperand (s : State) : Half × Half := splitBlock s.input.din

end Sys2Proof.Machine
end

