-- ==== Sys2Proof/Machine/Flags.lean ====
section
/-! DEFINITION. The flags: `busy`, the STATUS view (10_state.md R31), the fault checks (60_exceptions.md R191 to R195) and
the acceptance condition (44_controller.md R162). The arithmetic sets no flag (10_state.md R29). -/

namespace Sys2Proof.Machine

/-- The two faults (60_exceptions.md R191). -/
inductive Violation where
  | nokey
  | busy
  deriving DecidableEq, Repr

/-- The `CAUSE` code of a fault (R191). Code `11` is never produced. -/
def Violation.code : Violation → BitVec 2
  | .nokey => 0b01#2
  | .busy => 0b10#2

/-- `busy`: 1 when `PHASE` is not IDLE (10_state.md R30). -/
def State.busy (s : State) : Bool := decide (s.phase ≠ .idle)

/-- Does the command use the round keys? -/
def needsKey : Cmd → Bool
  | .nop => false
  | .loadkey => false
  | .encrypt => true
  | .decrypt => true

/-- Part 1 of the step function (44_controller.md R160): the fault that presenting command `c` in state `s` raises, in
the order of R195: an existing fault, then BUSY, then NOKEY. -/
def raised (c : Cmd) (s : State) : Option Violation :=
  if s.fault = true then none
  else if c = .nop then none
  else if s.phase ≠ .idle then some .busy
  else if needsKey c = true ∧ s.kvalid = false then some .nokey
  else none

/-- Is command `c`, presented in state `s` with `rst = 0`, accepted (44_controller.md R162)? -/
def accepts (c : Cmd) (s : State) : Bool :=
  decide (c ≠ .nop) && decide (s.phase = .idle) && !s.fault && (!needsKey c || s.kvalid)

/-- The 6-bit view STATUS (10_state.md R31): `cause`, `fault`, `kvalid`, `done`, `busy` from the high bits down. -/
def State.status (s : State) : BitVec 6 :=
  s.cause ++ BitVec.ofBool s.fault ++ BitVec.ofBool s.kvalid ++ BitVec.ofBool s.done ++ BitVec.ofBool s.busy

end Sys2Proof.Machine
end

