-- ==== Sys2Proof/Machine/Ops.lean ====
section
/-! DEFINITION. The named operations on the state: the register writes of one step, fault entry (60_exceptions.md R192),
reset (70_reset_and_hazards.md R220), the shared micro-steps (40_key_schedule.md R96, 44_controller.md R165 to R167), and
what a step does around the instructions it runs. All writes of one step read the state before it (00_scope.md R11). -/

namespace Sys2Proof.Machine

/-- Run `f` on the next state, if there is one. -/
def andThen (o : Host.Outcome State Fault Refusal) (f : State → Host.Outcome State Fault Refusal) :
    Host.Outcome State Fault Refusal :=
  match o with
  | .next s => f s
  | .fault e => .fault e
  | .refused e => .refused e

/-- Fault entry, the one operation that raises a fault (60_exceptions.md R192): `FAULT <- 1; CAUSE <- cause`. There is no
handler, no saved state and no return (R192, R196): only reset clears the two registers. -/
def raiseFault (v : Violation) (s : State) : State := { s with fault := true, cause := v.code }

/-- The reset step (70_reset_and_hazards.md R220). The data registers hold no value from here on (log 3). -/
def hostReset (s : State) : State := State.afterReset (s.resets + 1) s.script

/-- The step's line of the script has been presented. -/
def State.advance (s : State) : State := { s with script := s.script.tail }

/-- Acceptance of LOADKEY with key `k` (40_key_schedule.md R95). -/
def acceptKey (k : Key) (s : State) : State :=
  { s with key := k, phase := .ks, rnd := 0, kvalid := false, done := false }

/-- Acceptance of ENCRYPT or DECRYPT with the halves `lr` of the block; `p` is the command's phase (44_controller.md R163,
R164). -/
def acceptBlock (p : Phase) (lr : Half × Half) (s : State) : State :=
  { s with l := lr.1, r := lr.2, phase := p, rnd := 0, done := false }

/-- What presenting command `c` does on its own: raise the fault of part 1 (44_controller.md R160), or be accepted (R162),
or be ignored (60_exceptions.md R197). `accept` is the command's acceptance. -/
def present (c : Cmd) (accept : State → State) (s : State) : State :=
  match raised c s with
  | some v => raiseFault v s
  | none => if accepts c s = true then accept s else s

/-- The write `RK[i] <- v` (20_memory.md R52). -/
def writeRk (i : Fin 4) (v : Half) (s : State) : State := { s with rk := s.rk.set i v }

/-- The writes `L <- newL; R <- newR`. -/
def writeHalves (lr : Half × Half) (s : State) : State := { s with l := lr.1, r := lr.2 }

/-- `RND <- RND + 1` after micro-step `i < 3` (10_state.md R24). -/
def nextRnd (i : Fin 4) (s : State) : State := { s with rnd := BitVec.ofFin i + 1 }

/-- The end of KS3: `PHASE <- IDLE; RND <- 0; KVALID <- 1` (40_key_schedule.md R96). -/
def finishKey (s : State) : State := { s with phase := .idle, rnd := 0, kvalid := true }

/-- Completion of ENCRYPT or DECRYPT with `(newL, newR)`: `DOUT`, `DONE`, `PHASE`, `RND` (44_controller.md R167). -/
def finishBlock (lr : Half × Half) (s : State) : State :=
  { s with dout := joinBlock lr, done := true, phase := .idle, rnd := 0, doutHeld := true }

/-- KS micro-step `i` (40_key_schedule.md R96). -/
def ksMicroStep (i : Fin 4) (s : State) : State :=
  let s1 := writeRk i (ksrk s.key i) s
  if i.val < 3 then nextRnd i s1 else finishKey s1

/-- The end of round `i`, shared by both directions: the new halves are written, then the next round or completion
(44_controller.md R165, R166, R167). -/
def finishRound (i : Fin 4) (lr : Half × Half) (s : State) : State :=
  let s1 := writeHalves lr s
  if i.val < 3 then nextRnd i s1 else finishBlock lr s1

/-- ENC micro-step `i` (44_controller.md R165): round `i` uses `RK[i]`. -/
def encMicroStep (t : Tables) (i : Fin 4) (s : State) : State :=
  finishRound i (encRound t (s.l, s.r) (s.rk.get i)) s

/-- DEC micro-step `j` (44_controller.md R166): round `j` uses `RK[3 - j]`. -/
def decMicroStep (t : Tables) (j : Fin 4) (s : State) : State :=
  finishRound j (decRound t (s.l, s.r) (s.rk.get (3 - j))) s

/-- The micro-step word the controller performs next, decoded (30_encoding.md R73, R74). -/
def fetchUstep (s : State) : Except DecodeError Instr := decodeUstep s.phase s.rnd

/-- The command word on the port, decoded (R70). -/
def fetchCommand (s : State) : Instr := s.command.instr

/-- Set the input port values of the next step. -/
def State.setInput (s : State) (a : Input) : State := { s with script := a :: s.script.tail }

/-- Put a command word on the `cmd` port of the next step, `rst = 0`; the operand ports stay as they are. -/
def placeCommand (w : BitVec 2) (s : State) : State := s.setInput { s.input with rst := false, cmd := w }

/-- Put a micro-step word into `PHASE ++ RND`, with NOP on the port and `rst = 0`, so that the next step performs it and
nothing else. -/
def placeUstep (w : BitVec 4) (s : State) : State :=
  placeCommand 0b00#2 { s with phase := ustepPhase w, rnd := ustepRnd w }

/-- Put an instruction word where the next step fetches it (log 6). -/
def placeWord (iw : InstrWord) (s : State) : State :=
  match iw.fmt with
  | .cmd => placeCommand (iw.bits.setWidth 2) s
  | .ustep => placeUstep iw.bits s

end Sys2Proof.Machine
end

