-- ==== Sys2Proof/Machine/Commands.lean ====
section
/-! DEFINITION. The meanings of the host commands NOP, LOADKEY, ENCRYPT, DECRYPT (44_controller.md R161 to R164,
40_key_schedule.md R95) and of IDLE, the micro-step that waits for one (44_controller.md R160, R169).

A command's meaning is what presenting it does by itself; the micro-step that is due in the same step is the meaning of
its own row (log 8). -/

namespace Sys2Proof.Machine

/-- NOP writes no register and raises nothing, in any state (44_controller.md R161). -/
def execNop (s : State) : Host.Outcome State Fault Refusal := .next s

/-- LOADKEY (40_key_schedule.md R95): accepted, or BUSY, or ignored. -/
def execLoadkey (s : State) : Host.Outcome State Fault Refusal :=
  .next (present .loadkey (acceptKey s.keyOperand) s)

/-- ENCRYPT (44_controller.md R163): accepted, or NOKEY, or BUSY, or ignored. -/
def execEncrypt (s : State) : Host.Outcome State Fault Refusal :=
  .next (present .encrypt (acceptBlock .enc s.blockOperand) s)

/-- DECRYPT (44_controller.md R164): accepted, or NOKEY, or BUSY, or ignored. -/
def execDecrypt (s : State) : Host.Outcome State Fault Refusal :=
  .next (present .decrypt (acceptBlock .dec s.blockOperand) s)

/-- IDLE (44_controller.md R160, R162, R169): look at the command on the port and accept it if it may be accepted; else
raise its fault or change nothing. -/
def execIdle (s : State) : Host.Outcome State Fault Refusal :=
  match s.command with
  | .nop => execNop s
  | .loadkey => execLoadkey s
  | .encrypt => execEncrypt s
  | .decrypt => execDecrypt s

end Sys2Proof.Machine
end

