-- ==== Sys2Proof/Machine/MicroSteps.lean ====
section
/-! DEFINITION. The meanings of the twelve working micro-steps: KS0 to KS3 (40_key_schedule.md R96), ENC0 to ENC3
(44_controller.md R165, R167), DEC0 to DEC3 (R166, R167). Each takes its index from its own row; the step calls it exactly
when `PHASE ++ RND` is its word (log 9). -/

namespace Sys2Proof.Machine

/-- KS0 (R96). -/
def execKs0 (s : State) : Host.Outcome State Fault Refusal := .next (ksMicroStep 0 s)

/-- KS1 (R96). -/
def execKs1 (s : State) : Host.Outcome State Fault Refusal := .next (ksMicroStep 1 s)

/-- KS2 (R96). -/
def execKs2 (s : State) : Host.Outcome State Fault Refusal := .next (ksMicroStep 2 s)

/-- KS3 (R96): the last round key, `KVALID <- 1`, back to IDLE. -/
def execKs3 (s : State) : Host.Outcome State Fault Refusal := .next (ksMicroStep 3 s)

/-- ENC0 (R165). -/
def execEnc0 (s : State) : Host.Outcome State Fault Refusal := .next (encMicroStep Config.tables 0 s)

/-- ENC1 (R165). -/
def execEnc1 (s : State) : Host.Outcome State Fault Refusal := .next (encMicroStep Config.tables 1 s)

/-- ENC2 (R165). -/
def execEnc2 (s : State) : Host.Outcome State Fault Refusal := .next (encMicroStep Config.tables 2 s)

/-- ENC3 and completion (R165, R167). -/
def execEnc3 (s : State) : Host.Outcome State Fault Refusal := .next (encMicroStep Config.tables 3 s)

/-- DEC0 (R166), with `RK[3]`. -/
def execDec0 (s : State) : Host.Outcome State Fault Refusal := .next (decMicroStep Config.tables 0 s)

/-- DEC1 (R166), with `RK[2]`. -/
def execDec1 (s : State) : Host.Outcome State Fault Refusal := .next (decMicroStep Config.tables 1 s)

/-- DEC2 (R166), with `RK[1]`. -/
def execDec2 (s : State) : Host.Outcome State Fault Refusal := .next (decMicroStep Config.tables 2 s)

/-- DEC3 (R166), with `RK[0]`, and completion (R167). -/
def execDec3 (s : State) : Host.Outcome State Fault Refusal := .next (decMicroStep Config.tables 3 s)

end Sys2Proof.Machine
end

