-- ==== Sys2Proof/Machine/Dispatch.lean ====
section
/-! DEFINITION. One arm per row of the opcode table, each one call of that instruction's meaning. -/

namespace Sys2Proof.Machine

def exec (i : Instr) (s : State) : Host.Outcome State Fault Refusal :=
  match i with
  -- format CMD (30_encoding.md R70)
  | .nop => Sys2Proof.Machine.execNop s
  | .loadkey => Sys2Proof.Machine.execLoadkey s
  | .encrypt => Sys2Proof.Machine.execEncrypt s
  | .decrypt => Sys2Proof.Machine.execDecrypt s
  -- format USTEP (30_encoding.md R73)
  | .idle => Sys2Proof.Machine.execIdle s
  | .ks0 => Sys2Proof.Machine.execKs0 s
  | .ks1 => Sys2Proof.Machine.execKs1 s
  | .ks2 => Sys2Proof.Machine.execKs2 s
  | .ks3 => Sys2Proof.Machine.execKs3 s
  | .enc0 => Sys2Proof.Machine.execEnc0 s
  | .enc1 => Sys2Proof.Machine.execEnc1 s
  | .enc2 => Sys2Proof.Machine.execEnc2 s
  | .enc3 => Sys2Proof.Machine.execEnc3 s
  | .dec0 => Sys2Proof.Machine.execDec0 s
  | .dec1 => Sys2Proof.Machine.execDec1 s
  | .dec2 => Sys2Proof.Machine.execDec2 s
  | .dec3 => Sys2Proof.Machine.execDec3 s

end Sys2Proof.Machine
end

