-- ==== Sys2Proof/Machine/Run.lean ====
section
/-! DEFINITION. What one step of the CORE does (44_controller.md R160). It runs two instruction words: the command on the
`cmd` port, and the micro-step `PHASE ++ RND` says is due (log 8). -/

namespace Sys2Proof.Machine

/-- The controller's move with `rst = 0`. IDLE itself takes the command on the port; a busy controller first looks at the
port, where a command can only raise BUSY, and then performs its micro-step, which reads no port. Parts 2 and 3 of R160
write different registers, so their order does not matter. -/
def runWords (s : State) : Host.Outcome State Fault Refusal :=
  match fetchUstep s with
  | .error _ => .refused .illegalUstep
  | .ok .idle => exec .idle s
  | .ok u => andThen (exec (fetchCommand s) s) (exec u)

/-- The step function (R160): reset if `rst = 1`, else the controller's move; then the next line of the script is the
next step's. -/
def runStep (s : State) : Host.Outcome State Fault Refusal :=
  if s.input.rst = true then .next (hostReset s).advance
  else andThen (runWords s) fun t => .next t.advance

/-- `s` with the opcode table's word `w` placed where the next step fetches it (log 6). -/
def placeTableWord (s : State) (nbits w : Nat) : State :=
  match tableWord nbits w with
  | some iw => placeWord iw s
  | none => s

end Sys2Proof.Machine
end

