-- ==== Sys2Proof/Machine/Step.lean ====
section
/-! DEFINITION. One step of the CORE (44_controller.md R160), and the placing of an instruction word for the next step. -/

namespace Sys2Proof.Machine

/-- The step function (R160): `runStep`. -/
def step (s : State) : Host.Outcome State Fault Refusal := runStep s

/-- `s` with the opcode table's word `w` placed where `step` fetches its next instruction (log 6): a CMD word on the `cmd`
port, a USTEP word in `PHASE ++ RND` with NOP on the port, and `rst = 0`. -/
def State.withFetchWord (s : State) (nbits w : Nat) : State := placeTableWord s nbits w

end Sys2Proof.Machine
end

