-- ==== Sys2Proof/Machine/Controller.lean ====
section
/-! DEFINITION. The pseudocode of 44_controller.md R160 written down as it stands, over any table contents: a reading of
the step function that does not go through the instructions' meanings. It is the clear form that `step` is compared with;
`step` does not use it. -/

namespace Sys2Proof.Machine

/-- Part 1 of R160: `none`, or the `CAUSE` code of the fault raised (`10` BUSY, `01` NOKEY). -/
def specRaised (s : State) (a : Input) : Option (BitVec 2) :=
  if s.fault = false ∧ a.cmd ≠ 0b00#2 then
    if s.phase ≠ .idle then some 0b10#2
    else if (a.cmd = 0b10#2 ∨ a.cmd = 0b11#2) ∧ s.kvalid = false then some 0b01#2
    else none
  else none

/-- `accept in.cmd`: LOADKEY (R95), ENCRYPT (R163), DECRYPT (R164). -/
def specAccept (s : State) (a : Input) : State :=
  if a.cmd = 0b01#2 then
    { s with key := a.keyIn, phase := .ks, rnd := 0, kvalid := false, done := false }
  else if a.cmd = 0b10#2 then
    { s with l := a.din.extractLsb' 16 16, r := a.din.extractLsb' 0 16, phase := .enc, rnd := 0, done := false }
  else
    { s with l := a.din.extractLsb' 16 16, r := a.din.extractLsb' 0 16, phase := .dec, rnd := 0, done := false }

/-- The KS micro-step `RND` (R96). -/
def specKs (s : State) : State :=
  if s.rnd.toNat < 3 then
    { s with rk := s.rk.set s.rnd.toFin (ksrk s.key s.rnd.toFin), rnd := s.rnd + 1 }
  else
    { s with rk := s.rk.set s.rnd.toFin (ksrk s.key s.rnd.toFin), phase := .idle, rnd := 0, kvalid := true }

/-- The end of a round with `(newL, newR)` (R165, R166), completion included (R167). -/
def specRoundEnd (s : State) (newL newR : Half) : State :=
  if s.rnd.toNat < 3 then
    { s with l := newL, r := newR, rnd := s.rnd + 1 }
  else
    { s with l := newL, r := newR, dout := newL ++ newR, done := true, phase := .idle, rnd := 0, doutHeld := true }

/-- The ENC micro-step `RND` (R165). -/
def specEnc (t : Tables) (s : State) : State :=
  let k := s.rk.get s.rnd.toFin
  let f := fFunction t s.r k
  specRoundEnd s s.r (s.l ^^^ f)

/-- The DEC micro-step `RND` (R166). -/
def specDec (t : Tables) (s : State) : State :=
  let k := s.rk.get (Fin.rev s.rnd.toFin)
  let f := fFunction t s.l k
  specRoundEnd s (s.r ^^^ f) s.l

/-- Part 2 of R160. -/
def specMove (t : Tables) (s : State) (a : Input) : State :=
  match s.phase with
  | .idle => if s.fault = false ∧ specRaised s a = none ∧ a.cmd ≠ 0b00#2 then specAccept s a else s
  | .ks => specKs s
  | .enc => specEnc t s
  | .dec => specDec t s

/-- `step(S, in)` as R160 writes it. -/
def specStep (t : Tables) (s : State) (a : Input) : State :=
  if a.rst = true then State.afterReset (s.resets + 1) s.script
  else
    match specRaised s a with
    | some c => { specMove t s a with fault := true, cause := c }
    | none => specMove t s a

end Sys2Proof.Machine
end

