-- ==== Sys2Proof/Machine/Invariant.lean ====
section
/-! DEFINITION. Which states are well formed (10_state.md R34, 93 U11 to U13), the inductive strengthening of it, which
registers hold a value that some rule can still read (R33), and the gates that refuse what is not well formed (R8, R74). -/

namespace Sys2Proof.Machine

/-- R34 (a). -/
abbrev State.IdleRndZero (s : State) : Prop := s.phase = .idle → s.rnd = 0

/-- R34 (b). -/
abbrev State.KsFlags (s : State) : Prop := s.phase = .ks → s.kvalid = false ∧ s.done = false

/-- R34 (c). -/
abbrev State.RoundFlags (s : State) : Prop := s.phase = .enc ∨ s.phase = .dec → s.kvalid = true ∧ s.done = false

/-- R34 (d). -/
abbrev State.CauseMatches (s : State) : Prop :=
  (s.fault = false → s.cause = 0b00#2) ∧ (s.fault = true → s.cause = 0b01#2 ∨ s.cause = 0b10#2)

/-- R34 (e). -/
abbrev State.KeysValid (s : State) : Prop := s.kvalid = true → ∀ i : Fin 4, s.rk.get i = ksrk s.key i

/-- R34 (f). -/
abbrev State.DoneIdle (s : State) : Prop := s.done = true → s.phase = .idle

/-- R34 (a) to (f): a well-formed state. -/
abbrev State.Wf (s : State) : Prop :=
  s.IdleRndZero ∧ s.KsFlags ∧ s.RoundFlags ∧ s.CauseMatches ∧ s.KeysValid ∧ s.DoneIdle

/-- During a key load the round keys below `RND` already belong to `KEY` (40_key_schedule.md R96). -/
abbrev State.KeysLoading (s : State) : Prop :=
  s.phase = .ks → ∀ j : Fin 4, j.val < s.rnd.toNat → s.rk.get j = ksrk s.key j

/-- `DONE` says that `DOUT` has been written (10_state.md R26). -/
abbrev State.DoneHeld (s : State) : Prop := s.done = true → s.doutHeld = true

/-- The inductive invariant: R34 with what makes it step-closed. -/
abbrev State.Inv (s : State) : Prop := s.Wf ∧ s.KeysLoading ∧ s.DoneHeld

/-- The gate for a state given from outside: one that is not well formed is refused (93 U11 to U13). `step` itself runs
R160 on every state whose micro-step word is legal (log 11). -/
def State.gate (s : State) : Host.Outcome State Fault Refusal :=
  if s.Wf then .next s else .refused .illFormedState

/-- The gate for table contents: a configuration that is not well formed is refused (00_scope.md R8, 93 U3; log 2). -/
def admitTables (t : Tables) : Except Refusal Tables :=
  if t.Wf then .ok t else .error .illFormedTables

/-- `KEY` is read only in phase KS (10_state.md R20). -/
abbrev State.keyLive (s : State) : Prop := s.phase = .ks

/-- `RK[i]` can still be read before it is written again: it is valid, a round is running, or the running key load has
already written it (10_state.md R21). -/
abbrev State.rkLive (s : State) (i : Fin 4) : Prop :=
  s.kvalid = true ∨ s.phase = .enc ∨ s.phase = .dec ∨ (s.phase = .ks ∧ i.val < s.rnd.toNat)

/-- `L` and `R` are read only in phases ENC and DEC (10_state.md R22). -/
abbrev State.halvesLive (s : State) : Prop := s.phase = .enc ∨ s.phase = .dec

/-- Two states that differ at most in data registers no rule can read before they are written (10_state.md R33), and in
the count of resets: the same control state, flags and coming inputs, and equal contents of every live register. -/
structure State.Agree (s t : State) : Prop where
  phase    : s.phase = t.phase
  rnd      : s.rnd = t.rnd
  kvalid   : s.kvalid = t.kvalid
  done     : s.done = t.done
  fault    : s.fault = t.fault
  cause    : s.cause = t.cause
  doutHeld : s.doutHeld = t.doutHeld
  script   : s.script = t.script
  key      : s.keyLive → s.key = t.key
  rk       : ∀ i : Fin 4, s.rkLive i → s.rk.get i = t.rk.get i
  halves   : s.halvesLive → s.l = t.l ∧ s.r = t.r
  dout     : s.doutHeld = true → s.dout = t.dout

end Sys2Proof.Machine
end

