-- ==== Sys2Proof/Machine/Ports.lean ====
section
/-! DEFINITION. The output ports (10_state.md R30), functions of the state alone, and the triples a model may read off its
own state (60_exceptions.md R204). -/

namespace Sys2Proof.Machine

/-- What read number `n` of the `dout` port gives (10_state.md R27): `DOUT`, or a draw while `DOUT` has not been written
since reset (log 4). -/
def State.doutPort (s : State) (n : Nat) : Block := if s.doutHeld = true then s.dout else Config.doutDraw n

/-- All that the host sees in a state at read number `n` (10_state.md R30): no port shows anything else. -/
structure Outputs where
  dout   : BitVec 32
  busy   : Bool
  done   : Bool
  kvalid : Bool
  fault  : Bool
  cause  : BitVec 2
  deriving DecidableEq, Repr

/-- The output ports in a state, `dout` at read number `n` (R30). -/
def State.outputs (s : State) (n : Nat) : Outputs where
  dout := s.doutPort n
  busy := s.busy
  done := s.done
  kvalid := s.kvalid
  fault := s.fault
  cause := s.cause

/-- The triple `(L, R, roundKey)` after ENC micro-step `i` (60_exceptions.md R204). -/
def State.encTriple (s : State) (i : Fin 4) : Half × Half × Half := (s.l, s.r, s.rk.get i)

/-- The triple `(L, R, roundKey)` after DEC micro-step `j` (60_exceptions.md R204). -/
def State.decTriple (s : State) (j : Fin 4) : Half × Half × Half := (s.l, s.r, s.rk.get (3 - j))

end Sys2Proof.Machine
end

