-- ==== Sys2Proof/Machine/Script.lean ====
section
/-! DEFINITION. Command scripts (30_encoding.md R76, R77): what each pseudo-command stands for in a given state. -/

namespace Sys2Proof.Machine

/-- How many micro-steps the running operation still has: none when idle, `4 - RND` when busy (44_controller.md R168). -/
def State.microStepsLeft (s : State) : Nat := if s.busy = true then 4 - s.rnd.toNat else 0

/-- `WAIT`: NOP while `busy = 1` (R77). DEDUCED (log 18): the number of lines is the number of micro-steps left (R168). -/
def waitLines (s : State) : List Line := List.replicate s.microStepsLeft .nop

/-- The lines a pseudo-command expands to in state `s` (R77). -/
def expand (s : State) : Pseudo → List Line
  | .wait => waitLines s
  | .nops n => List.replicate n .nop
  | .new k => .loadkey k :: waitLines (specStep Config.tables s (Line.loadkey k).input)
  | .enc b => .encrypt b :: waitLines (specStep Config.tables s (Line.encrypt b).input)
  | .dec b => .decrypt b :: waitLines (specStep Config.tables s (Line.decrypt b).input)

/-- The input port values of a list of script lines, one step each (R76). -/
def inputsOf (ls : List Line) : List Input := ls.map Line.input

/-- Put a list of script lines before what the host has still to present. -/
def State.withLines (s : State) (ls : List Line) : State := { s with script := inputsOf ls ++ s.script }

end Sys2Proof.Machine
end

