-- ==== Sys2Proof/Safety.lean ====
section
/-! DEFINITION. What counts as a safe run: no fault recorded (60_exceptions.md R197), what the host owes
(70_reset_and_hazards.md R225), and which states a run from reset reaches (10_state.md R34). -/

namespace Sys2Proof.Machine

/-- A state that has not gone wrong (60_exceptions.md R197). -/
abbrev State.Safe (s : State) : Prop := s.fault = false

/-- HD2 at this step: a command other than NOP only when `busy = 0` (70_reset_and_hazards.md R225). -/
abbrev State.KeepsHD2 (s : State) : Prop := s.command ≠ .nop → s.busy = false

/-- HD3 at this step: ENCRYPT or DECRYPT only when `kvalid = 1` (R225). -/
abbrev State.KeepsHD3 (s : State) : Prop := needsKey s.command = true → s.kvalid = true

/-- The host keeps HD2 and HD3 at each of the next `n` steps (R225). A step with `rst = 1` owes nothing (R220). -/
def State.KeepsDuties : Nat → State → Prop
  | 0, _ => True
  | n + 1, s =>
    (s.input.rst = false → s.KeepsHD2 ∧ s.KeepsHD3) ∧ ∀ t, step s = .next t → t.KeepsDuties n

/-- The states reachable from a reset step by any sequence of inputs (10_state.md R34): after any reset step, with any
script, and after any step; the host may change what it will present at any time. -/
inductive Reachable : State → Prop where
  | reset (n : Nat) (script : List Input) : Reachable (State.afterReset n script)
  | step (s t : State) : Reachable s → Sys2Proof.Machine.step s = .next t → Reachable t
  | host (s : State) (script : List Input) : Reachable s → Reachable { s with script := script }

/-- No line of the next `n` is a reset. -/
abbrev State.NoReset (s : State) (n : Nat) : Prop := ∀ k < n, (s.inputAt k).rst = false

/-- `n` steps of the machine. -/
abbrev runFor (n : Nat) (s : State) : Host.Outcome State Fault Refusal := Host.Core.run Sys2Proof.core n s

end Sys2Proof.Machine
end

