-- ==== Sys2Proof/Certificates/Slice0/Obligations.lean ====
section
/-! DEFINITION. The statements for the provers, from the numbered rules of spec/. Statements about the cipher's functions
hold for every table contents, or for every well-formed one; statements about the machine hold for the hardware's tables,
of which nothing but their being bijections is known, and for every script of the host. -/

open Sys2Proof Sys2Proof.Machine

/-! ## The functions -/

/-- 40_key_schedule.md R90: `ROTL32` is the formula, it moves bit `(b - s) mod 32` to bit `b`, and the hardware evaluates it
at 3, 5, 7, 9 only; with the rule's examples. -/
def Obligations.RotationIsCircular : Prop :=
  (∀ (v : KeyHalf) (s : Nat), 0 < s → s < 32 →
    (rotl32 v s).toNat = ((v.toNat <<< s) ||| (v.toNat >>> (32 - s))) % 2 ^ 32 ∧
    ∀ b : Fin 32, (rotl32 v s).getLsbD b.val = v.getLsbD ((b.val + (32 - s)) % 32)) ∧
  (∀ i : Fin 4, ksAmount i = 3 ∨ ksAmount i = 5 ∨ ksAmount i = 7 ∨ ksAmount i = 9) ∧
  rotl32 0xAB12CD34#32 3 = 0x589669A5#32 ∧ rotl32 0x80000000#32 3 = 0x00000004#32 ∧
  rotl32 0xFFFFFFFF#32 9 = 0xFFFFFFFF#32 ∧ rotl32 0#32 7 = 0#32

/-- 40_key_schedule.md R91 and R92 with the parameters of 00_scope.md R6: the key splits at bit 32; round key `i` is the
half as split (92 D4), rotated by `KS_ROT[i]`, XORed with `KS_CONST[i]` on 32 bits and cut to 16, and the cut may be taken
before the XOR. -/
def Obligations.RoundKeyFormula : Prop :=
  leftHalf 0xAB12CD34EF567890#64 = 0xAB12CD34#32 ∧ rightHalf 0xAB12CD34EF567890#64 = 0xEF567890#32 ∧
  ∀ (key : Key) (i : Fin 4),
    (leftHalf key).toNat = key.toNat / 2 ^ 32 ∧ (rightHalf key).toNat = key.toNat % 2 ^ 32 ∧
    ksrk key i =
      (rotl32 (if Config.ksFromLeft i = true then leftHalf key else rightHalf key) (Config.ksRot i)
        ^^^ BitVec.ofNat 32 (Config.ksConst i)).setWidth 16 ∧
    ksrk key i =
      (rotl32 (if i.val < 2 then leftHalf key else rightHalf key)
        (if i.val < 2 then 3 + 2 * i.val else 7 + 2 * (i.val - 2))).setWidth 16
        ^^^ BitVec.ofNat 16 (i.val + 1)

/-- 40_key_schedule.md R94: each round key is sixteen chosen key bits with a constant XORed in; key bits 9..22 and 45..58
reach no round key; the rule's examples; the round keys of a key need not be distinct. -/
def Obligations.KeyScheduleExtractsKeyBits : Prop :=
  (∀ key : Key,
    ksrk key 0 = ((leftHalf key).extractLsb' 0 13 ++ (leftHalf key).extractLsb' 29 3 : BitVec 16) ^^^ 0x0001#16 ∧
    ksrk key 1 = ((leftHalf key).extractLsb' 0 11 ++ (leftHalf key).extractLsb' 27 5 : BitVec 16) ^^^ 0x0002#16 ∧
    ksrk key 2 = ((rightHalf key).extractLsb' 0 9 ++ (rightHalf key).extractLsb' 25 7 : BitVec 16) ^^^ 0x0003#16 ∧
    ksrk key 3 = ((rightHalf key).extractLsb' 0 7 ++ (rightHalf key).extractLsb' 23 9 : BitVec 16) ^^^ 0x0004#16 ∧
    ksrk key 0 = (key.extractLsb' 32 13 ++ key.extractLsb' 61 3 : BitVec 16) ^^^ 0x0001#16 ∧
    ksrk key 1 = (key.extractLsb' 32 11 ++ key.extractLsb' 59 5 : BitVec 16) ^^^ 0x0002#16 ∧
    ksrk key 2 = (key.extractLsb' 0 9 ++ key.extractLsb' 25 7 : BitVec 16) ^^^ 0x0003#16 ∧
    ksrk key 3 = (key.extractLsb' 0 7 ++ key.extractLsb' 23 9 : BitVec 16) ^^^ 0x0004#16) ∧
  (∀ k1 k2 : Key,
    (∀ b : Fin 64, ¬(9 ≤ b.val ∧ b.val ≤ 22) → ¬(45 ≤ b.val ∧ b.val ≤ 58) → k1.getLsbD b.val = k2.getLsbD b.val) →
    keySchedule k1 = keySchedule k2) ∧
  keySchedule 0x0000000000000000#64 = ⟨0x0001#16, 0x0002#16, 0x0003#16, 0x0004#16⟩ ∧
  keySchedule 0x0001000000010000#64 = ⟨0x0001#16, 0x0002#16, 0x0003#16, 0x0004#16⟩ ∧
  keySchedule 0xFFFFFFFFFFFFFFFF#64 = ⟨0xFFFE#16, 0xFFFD#16, 0xFFFC#16, 0xFFFB#16⟩ ∧
  ∃ key : Key, ∃ i j : Fin 4, i ≠ j ∧ ksrk key i = ksrk key j

/-- 41_sbox_pbox.md R111: `SUB` replaces each nibble by its S-box entry in place; with a bijective table it is a bijection. -/
def Obligations.SubstitutionActsOnEachNibble : Prop :=
  ∀ t : Tables,
    (∀ (x : Half) (i : Fin 4), nib (sub t x) i = sboxRead t (nib x i)) ∧
    (∀ i : Fin 4, nib (sub t 0x0000#16) i = sboxRead t 0x0#4) ∧
    (t.SboxWf → Function.Bijective (sub t))

/-- 41_sbox_pbox.md R114: `PERM` is the OR over `i` of `y[i] << PBOX0[i]` in any order of the loop, for any table; with a
well-formed table bit `i` lands at `PBOX0[i]`, and the number of 1 bits is kept. -/
def Obligations.PermutationScattersBits : Prop :=
  ∀ t : Tables,
    (∀ (y : Half) (j : Fin 16),
      (perm t y).getLsbD j.val = true ↔ ∃ i : Fin 16, y.getLsbD i.val = true ∧ pbox0 t i = j) ∧
    (∀ (y : Half) (order : List (Fin 16)), order.Perm (List.finRange 16) →
      order.foldl (permStep t y) 0x0000#16 = perm t y) ∧
    (t.PboxWf →
      (∀ (y : Half) (i : Fin 16), (perm t y).getLsbD (pbox0 t i).val = y.getLsbD i.val) ∧
      (∀ y : Half, (List.finRange 16).countP (fun j => (perm t y).getLsbD j.val) =
        (List.finRange 16).countP (fun i => y.getLsbD i.val)) ∧
      perm t 0x0000#16 = 0x0000#16 ∧ perm t 0xFFFF#16 = 0xFFFF#16)

/-- 41_sbox_pbox.md R115: with a well-formed table `PINV` is the inverse of `PBOX0`, `PERM` is the gather through `PINV`,
and `PERM` is a bijection whose inverse gathers through `PBOX0`. -/
def Obligations.PermutationGathersThroughPinv : Prop :=
  ∀ t : Tables, t.PboxWf →
    (∀ j : Fin 16, pbox0 t (pinv t j) = j) ∧
    (∀ i j : Fin 16, pbox0 t i = j → i = pinv t j) ∧
    (∀ (y : Half) (j : Fin 16), (perm t y).getLsbD j.val = y.getLsbD (pinv t j).val) ∧
    Function.Bijective (perm t) ∧
    ∀ (p y : Half), perm t y = p → ∀ i : Fin 16, y.getLsbD i.val = p.getLsbD (pbox0 t i).val

/-- 42_f_function.md R130: `MIX` is addition modulo 65536. The last clause says when it differs from XOR: when some bit
below bit 15 is 1 in both operands. The rule's own sentence on that point is wider and disagrees with 95 section 3.5; the
clause is the model's (log 17). -/
def Obligations.MixAddsModulo65536 : Prop :=
  (∀ p k : Half, (mix p k).toNat = (p.toNat + k.toNat) % 65536) ∧
  (∀ p k : Half, mix p k = mix k p) ∧
  (∀ p : Half, mix p 0x0000#16 = p ∧ mix p 0xFFFF#16 = p - 1#16) ∧
  (∀ k : Half, Function.Bijective fun p => mix p k) ∧
  mix 0xFFFF#16 0x0001#16 = 0x0000#16 ∧ mix 0x8000#16 0x8000#16 = 0x0000#16 ∧
  mix 0xC9A3#16 0x69A4#16 = 0x3347#16 ∧
  ∀ p k : Half, mix p k ≠ p ^^^ k ↔ ∃ i : Fin 15, p.getLsbD i.val = true ∧ k.getLsbD i.val = true

/-- 42_f_function.md R131: F substitutes, permutes, then adds the key; it depends on `x` only through the first two stages;
for well-formed tables it is a bijection in `x`, and for any tables a bijection in `k`. -/
def Obligations.RoundFunctionStages : Prop :=
  ∀ t : Tables,
    (∀ x k : Half, fFunction t x k = mix (perm t (sub t x)) k) ∧
    (∀ x : Half, fFunction t x 0x0000#16 = perm t (sub t x)) ∧
    (∀ x k : Half, fFunction t x k = fFunction t x 0x0000#16 + k) ∧
    (t.Wf → ∀ k : Half, Function.Bijective fun x => fFunction t x k) ∧
    ∀ x : Half, Function.Bijective fun k => fFunction t x k

/-- 43_feistel_round.md R140 to R142: the split, the join and the two rounds. -/
def Obligations.FeistelRoundForms : Prop :=
  (∀ b : Block, (splitBlock b).1.toNat = b.toNat / 2 ^ 16 ∧ (splitBlock b).2.toNat = b.toNat % 2 ^ 16) ∧
  (∀ l r : Half, (joinBlock (l, r)).toNat = l.toNat * 2 ^ 16 + r.toNat) ∧
  (∀ (t : Tables) (l r k : Half), encRound t (l, r) k = (r, l ^^^ fFunction t r k)) ∧
  (∀ (t : Tables) (l r k : Half), decRound t (l, r) k = (r ^^^ fFunction t l k, l)) ∧
  ∀ (t : Tables) (l r k : Half), fFunction t r k = 0x0000#16 → encRound t (l, r) k = (r, l)

/-- 43_feistel_round.md R143: each round undoes the other with the same key, for any tables at all. -/
def Obligations.FeistelRoundsUndoEachOther : Prop :=
  ∀ (t : Tables) (l r k : Half),
    decRound t (encRound t (l, r) k) k = (l, r) ∧ encRound t (decRound t (l, r) k) k = (l, r)

/-- 43_feistel_round.md R144 and R145: four rounds, all four swapping, the keys forward to encrypt and in reverse to
decrypt, and the last pair joined as it stands. -/
def Obligations.FourRoundsEachWay : Prop :=
  ∀ (t : Tables) (rk : RoundKeys) (b : Block),
    encryptBlock t rk b =
      joinBlock (encRound t (encRound t (encRound t (encRound t (splitBlock b) rk.k0) rk.k1) rk.k2) rk.k3) ∧
    decryptBlock t rk b =
      joinBlock (decRound t (decRound t (decRound t (decRound t (splitBlock b) rk.k3) rk.k2) rk.k1) rk.k0) ∧
    encryptBlock t rk b = joinBlock (encPair t rk b 4) ∧ decryptBlock t rk b = joinBlock (decPair t rk b 4)

/-- 43_feistel_round.md R146: decryption undoes encryption and encryption undoes decryption, for every round-key set and any
tables; so encryption is a bijection with decryption its inverse. -/
def Obligations.EncryptDecryptRoundTrip : Prop :=
  ∀ (t : Tables) (rk : RoundKeys),
    (∀ p : Block, decryptBlock t rk (encryptBlock t rk p) = p) ∧
    (∀ p : Block, encryptBlock t rk (decryptBlock t rk p) = p) ∧
    Function.Bijective (encryptBlock t rk) ∧
    Function.LeftInverse (decryptBlock t rk) (encryptBlock t rk) ∧
    Function.RightInverse (decryptBlock t rk) (encryptBlock t rk)

/-- 00_scope.md R8: the hardware's tables are well formed; the well-formed table contents are exactly those two bijections
stand for, so leaving the bijections open leaves every well-formed configuration open; the gate takes those and refuses
all others. -/
def Obligations.ConfigurationIsAnyWellFormedPair : Prop :=
  Config.tables.Wf ∧
  (∀ t : Tables, t.Wf ↔ ∃ s p : Equiv.Perm (Fin 16), t = Config.tablesOf s p) ∧
  (∀ t : Tables, t.Wf → admitTables t = .ok t) ∧
  (∀ t : Tables, ¬t.Wf → admitTables t = .error .illFormedTables) ∧
  ∀ (t : Tables), t.Wf → ∀ i : Fin 16, (pbox0 t i).val + 1 = (t.pbox1[i]).toNat

/-! ## Encodings -/

/-- 30_encoding.md R70, R73: words written out from the tables decode to the instructions they stand for. -/
def Obligations.WordsReadAsTheTablesSay : Prop :=
  decode ⟨.cmd, 0b0001#4⟩ = .ok .loadkey ∧ decode ⟨.cmd, 0b0011#4⟩ = .ok .decrypt ∧
  decode ⟨.ustep, 0b0000#4⟩ = .ok .idle ∧ decode ⟨.ustep, 0b0110#4⟩ = .ok .ks2 ∧
  decode ⟨.ustep, 0b1001#4⟩ = .ok .enc1 ∧ decode ⟨.ustep, 0b1111#4⟩ = .ok .dec3 ∧
  decode ⟨.ustep, 0b0010#4⟩ = .error .illegalUstep

/-- 30_encoding.md R70, R72, R73, R74: the word of each instruction decodes to it and is well formed, each word has one
meaning, and exactly the words that are not well formed are rejected. -/
def Obligations.InstructionWordsRoundTrip : Prop :=
  (∀ i : Instr, i.wf = true ∧ (encode i).wf = true ∧ (encode i).fmt = i.fmt ∧ decode (encode i) = .ok i) ∧
  (∀ (w : InstrWord) (i : Instr), decode w = .ok i → encode i = w) ∧
  ∀ w : InstrWord, w.wf = true ↔ ∃ i : Instr, decode w = .ok i

/-- 30_encoding.md R76: the 99-bit word of a script line gives the line back for every operand value; words and input port
values correspond one to one; the ignored ports of a line's word are zero, and any word of zero ignored ports is the word
of the line it presents. -/
def Obligations.ScriptWordsRoundTrip : Prop :=
  (∀ l : Line, Line.ofWord l.word = l ∧ l.input.canonical = true) ∧
  (∀ a : Input, Input.ofWord a.word = a) ∧
  (∀ w : BitVec 99, (Input.ofWord w).word = w) ∧
  ∀ w : BitVec 99, (Input.ofWord w).canonical = true → (Line.ofWord w).word = w

/-! ## The commands -/

/-- 44_controller.md R161: NOP writes nothing and raises nothing in any state; an idle CORE left alone keeps its whole state
for any number of steps; a busy one takes its micro-step and no fault is raised. -/
def Obligations.NopWritesNothing : Prop :=
  (∀ s : State, exec .nop s = .next s) ∧
  (∀ (n : Nat) (s : State), s.phase = .idle → s.rnd = 0 → s.NoReset n →
    (∀ k < n, decodeCmd (s.inputAt k).cmd = .nop) → runFor n s = .next { s with script := s.script.drop n }) ∧
  (∀ s : State, s.input.rst = false → s.command = .nop → s.phase ≠ .idle →
    ∃ u, fetchUstep s = .ok u ∧ step s = andThen (exec u s) fun t => .next t.advance) ∧
  ∀ s t : State, s.input.rst = false → s.command = .nop → step s = .next t → t.fault = s.fault ∧ t.cause = s.cause

/-- 40_key_schedule.md R95, the command's own effect: accepted by an idle, unfaulted CORE whatever `KVALID` is, BUSY when
busy, ignored when faulted; nothing else is written. -/
def Obligations.LoadkeyIsTakenOrFaults : Prop :=
  ∀ s : State,
    (s.phase = .idle → s.fault = false →
      exec .loadkey s =
        .next { s with key := s.input.keyIn, phase := .ks, rnd := 0, kvalid := false, done := false }) ∧
    (s.phase ≠ .idle → s.fault = false → exec .loadkey s = .next { s with fault := true, cause := 0b10#2 }) ∧
    (s.fault = true → exec .loadkey s = .next s)

/-- 44_controller.md R163, the command's own effect: accepted by an idle, unfaulted CORE with a valid key, NOKEY without
one, BUSY when busy, ignored when faulted; nothing else is written. -/
def Obligations.EncryptIsTakenOrFaults : Prop :=
  ∀ s : State,
    (s.phase = .idle → s.fault = false → s.kvalid = true →
      exec .encrypt s =
        .next { s with l := s.input.din.extractLsb' 16 16, r := s.input.din.extractLsb' 0 16, phase := .enc, rnd := 0, done := false }) ∧
    (s.phase = .idle → s.fault = false → s.kvalid = false →
      exec .encrypt s = .next { s with fault := true, cause := 0b01#2 }) ∧
    (s.phase ≠ .idle → s.fault = false → exec .encrypt s = .next { s with fault := true, cause := 0b10#2 }) ∧
    (s.fault = true → exec .encrypt s = .next s)

/-- 44_controller.md R164, the command's own effect: as ENCRYPT's but for the phase. -/
def Obligations.DecryptIsTakenOrFaults : Prop :=
  ∀ s : State,
    (s.phase = .idle → s.fault = false → s.kvalid = true →
      exec .decrypt s =
        .next { s with l := s.input.din.extractLsb' 16 16, r := s.input.din.extractLsb' 0 16, phase := .dec, rnd := 0, done := false }) ∧
    (s.phase = .idle → s.fault = false → s.kvalid = false →
      exec .decrypt s = .next { s with fault := true, cause := 0b01#2 }) ∧
    (s.phase ≠ .idle → s.fault = false → exec .decrypt s = .next { s with fault := true, cause := 0b10#2 }) ∧
    (s.fault = true → exec .decrypt s = .next s)

/-- 44_controller.md R160, R162, R169: IDLE waits; it accepts the command on the port when it may; without an acceptance it
changes nothing but `FAULT` and `CAUSE` when NOKEY is raised. -/
def Obligations.IdleWaitsAndAccepts : Prop :=
  ∀ s : State, s.phase = .idle →
    (s.input.cmd = 0b00#2 → exec .idle s = .next s) ∧
    (s.fault = true → exec .idle s = .next s) ∧
    (s.fault = false → s.input.cmd = 0b01#2 →
      exec .idle s =
        .next { s with key := s.input.keyIn, phase := .ks, rnd := 0, kvalid := false, done := false }) ∧
    (s.fault = false → s.kvalid = true → s.input.cmd = 0b10#2 →
      exec .idle s =
        .next { s with l := s.input.din.extractLsb' 16 16, r := s.input.din.extractLsb' 0 16, phase := .enc, rnd := 0, done := false }) ∧
    (s.fault = false → s.kvalid = true → s.input.cmd = 0b11#2 →
      exec .idle s =
        .next { s with l := s.input.din.extractLsb' 16 16, r := s.input.din.extractLsb' 0 16, phase := .dec, rnd := 0, done := false }) ∧
    (s.fault = false → s.kvalid = false → (s.input.cmd = 0b10#2 ∨ s.input.cmd = 0b11#2) →
      exec .idle s = .next { s with fault := true, cause := 0b01#2 })

/-- 44_controller.md R162, of the commands' own effects: accepted exactly when idle, unfaulted and, for ENCRYPT and DECRYPT,
keyed; acceptance clears `DONE`, sets `PHASE` to the phase whose code is the command's and `RND` to 0; a command not
accepted writes none of `KEY`, `RK`, `L`, `R`, `DOUT`, `PHASE`, `RND`, `KVALID`, `DONE` and queues nothing. -/
def Obligations.CommandsAreAcceptedExactlyWhen : Prop :=
  ∀ (c : Cmd) (s : State), c ≠ .nop → ∃ t, exec c.instr s = .next t ∧
    (s.phase = .idle ∧ s.fault = false ∧ (c = .encrypt ∨ c = .decrypt → s.kvalid = true) →
      t.done = false ∧ t.phase.code = encodeCmd c ∧ t.rnd = 0 ∧ t.fault = false ∧ t.cause = s.cause ∧
      t.rk = s.rk ∧ t.dout = s.dout ∧ t.script = s.script) ∧
    (¬(s.phase = .idle ∧ s.fault = false ∧ (c = .encrypt ∨ c = .decrypt → s.kvalid = true)) →
      t = { s with fault := t.fault, cause := t.cause })

/-! ## The micro-steps -/

/-- 40_key_schedule.md R96, the micro-steps' own effects: round key `i` is written, `RND` moves on, and the last one returns
to IDLE with `KVALID = 1`; nothing else is written. R96 says so where `PHASE ++ RND` is KS `i`; that the meaning of the row
is the same in every other state is the model's choice (log 9). -/
def Obligations.KeyMicroStepsComplete : Prop :=
  ∀ s : State,
    exec .ks0 s = .next { s with rk := { s.rk with k0 := ksrk s.key 0 }, rnd := 1 } ∧
    exec .ks1 s = .next { s with rk := { s.rk with k1 := ksrk s.key 1 }, rnd := 2 } ∧
    exec .ks2 s = .next { s with rk := { s.rk with k2 := ksrk s.key 2 }, rnd := 3 } ∧
    exec .ks3 s =
      .next { s with rk := { s.rk with k3 := ksrk s.key 3 }, phase := .idle, rnd := 0, kvalid := true }

/-- 44_controller.md R165, R167, the micro-steps' own effects: the new `L` is the old `R`, the new `R` is the old `L` XOR F
of the old `R` under `RK[i]`; ENC3 completes with the new halves on `DOUT`; nothing else is written. The rules say so where
`PHASE ++ RND` is ENC `i`; that the meaning of the row is the same in every other state is the model's choice (log 9). -/
def Obligations.EncMicroStepsComplete : Prop :=
  ∀ s : State,
    exec .enc0 s = .next { s with l := s.r, r := s.l ^^^ fFunction Config.tables s.r s.rk.k0, rnd := 1 } ∧
    exec .enc1 s = .next { s with l := s.r, r := s.l ^^^ fFunction Config.tables s.r s.rk.k1, rnd := 2 } ∧
    exec .enc2 s = .next { s with l := s.r, r := s.l ^^^ fFunction Config.tables s.r s.rk.k2, rnd := 3 } ∧
    exec .enc3 s =
      .next { s with
        l := s.r, r := s.l ^^^ fFunction Config.tables s.r s.rk.k3
        dout := s.r ++ (s.l ^^^ fFunction Config.tables s.r s.rk.k3)
        done := true, phase := .idle, rnd := 0, doutHeld := true }

/-- 44_controller.md R166, R167, the micro-steps' own effects: the new `R` is the old `L`, the new `L` is the old `R` XOR F
of the old `L` under `RK[3 - j]`; DEC3 completes with the new halves on `DOUT`; nothing else is written. The rules say so
where `PHASE ++ RND` is DEC `j`; that the meaning of the row is the same in every other state is the model's choice
(log 9). -/
def Obligations.DecMicroStepsComplete : Prop :=
  ∀ s : State,
    exec .dec0 s = .next { s with l := s.r ^^^ fFunction Config.tables s.l s.rk.k3, r := s.l, rnd := 1 } ∧
    exec .dec1 s = .next { s with l := s.r ^^^ fFunction Config.tables s.l s.rk.k2, r := s.l, rnd := 2 } ∧
    exec .dec2 s = .next { s with l := s.r ^^^ fFunction Config.tables s.l s.rk.k1, r := s.l, rnd := 3 } ∧
    exec .dec3 s =
      .next { s with
        l := s.r ^^^ fFunction Config.tables s.l s.rk.k0, r := s.l
        dout := (s.r ^^^ fFunction Config.tables s.l s.rk.k0) ++ s.l
        done := true, phase := .idle, rnd := 0, doutHeld := true }

/-! ## The step -/

/-- 44_controller.md R160, 30_encoding.md R70, R73: the two words a step fetches are the `cmd` port and `PHASE ++ RND`, each
read by the decoder. Without a reset, IDLE's meaning is the step; a busy controller runs the command's meaning and then
the micro-step's. Around them the step moves past one line of the script. -/
def Obligations.StepRunsTheDecodedWords : Prop :=
  ∀ s : State,
    fetchUstep s = decode ⟨.ustep, s.phase.code ++ s.rnd⟩ ∧
    decode ⟨.cmd, s.input.cmd.setWidth 4⟩ = .ok (fetchCommand s) ∧
    (s.input.rst = false → fetchUstep s = .ok .idle →
      step s = andThen (exec .idle s) (fun t => .next t.advance) ∧
      step s = andThen (exec (fetchCommand s) s) (fun t => .next t.advance)) ∧
    ∀ u : Instr, s.input.rst = false → fetchUstep s = .ok u → u ≠ .idle →
      step s = andThen (andThen (exec (fetchCommand s) s) (exec u)) fun t => .next t.advance

/-- 30_encoding.md R74, 93 U11: without a reset, a state whose micro-step word is `0001`, `0010` or `0011` is refused. Every
other state steps: 44_controller.md R160 and, under `rst`, 70_reset_and_hazards.md R220. That a reset step is taken in a
state with one of the three words too, and that the ill-formed states of 93 U12 and U13 step, are the model's choices
(logs 10 and 11). -/
def Obligations.OnlyIllegalMicroStepsStop : Prop :=
  (∀ s : State, s.input.rst = false → s.phase = .idle → s.rnd ≠ 0 → step s = .refused .illegalUstep) ∧
  ∀ s : State, ¬(s.input.rst = false ∧ s.phase = .idle ∧ s.rnd ≠ 0) → ∃ t, step s = .next t

/-- 70_reset_and_hazards.md R220: a step with `rst = 1` clears the control registers whatever the state and the other
inputs are, and two reset steps leave states that differ at most in registers that hold no value. -/
def Obligations.ResetStepClearsControl : Prop :=
  (∀ s : State, s.input.rst = true → ∃ t, step s = .next t ∧
    t.phase = .idle ∧ t.rnd = 0 ∧ t.kvalid = false ∧ t.done = false ∧ t.fault = false ∧ t.cause = 0b00#2 ∧
    t.doutHeld = false ∧ t.script = s.script.tail) ∧
  (∀ s s' t t' : State, s.input.rst = true → s'.input.rst = true → step s = .next t → step s' = .next t' →
    t.Agree { t' with script := t.script }) ∧
  ∀ (n : Nat) (s t u : State), (∀ k < n + 1, (s.inputAt k).rst = true) → step s = .next t → runFor (n + 1) s = .next u →
    u.Agree { t with script := u.script }

/-- 44_controller.md R160: in every state whose micro-step word has a meaning, and in every state under `rst`, the step is
the one the rule's pseudocode computes from the state and the input. -/
def Obligations.StepIsThePseudocode : Prop :=
  ∀ s : State, s.input.rst = true ∨ s.IdleRndZero →
    step s = .next (specStep Config.tables s s.input).advance

/-- 44_controller.md R168: `PHASE ++ RND` changes only by acceptance (to the command's code and 0), by a micro-step (one
more, or to IDLE and 0 after the last) and by reset; no data and no fault enters. -/
def Obligations.SequencingIsFixed : Prop :=
  ∀ s t : State, step s = .next t →
    (s.input.rst = true → t.phase = .idle ∧ t.rnd = 0) ∧
    (s.input.rst = false → s.phase ≠ .idle → s.rnd.toNat < 3 → t.phase = s.phase ∧ t.rnd.toNat = s.rnd.toNat + 1) ∧
    (s.input.rst = false → s.phase ≠ .idle → s.rnd.toNat = 3 → t.phase = .idle ∧ t.rnd = 0) ∧
    (s.input.rst = false → s.phase = .idle → accepts s.command s = true → t.phase.code = s.input.cmd ∧ t.rnd = 0) ∧
    (s.input.rst = false → s.phase = .idle → accepts s.command s = false → t.phase = .idle ∧ t.rnd = s.rnd)

/-- 10_state.md R20 to R23, 40_key_schedule.md R97: without a reset, `KEY` is written only by acceptance of LOADKEY, `RK[i]`
only by KS micro-step `i`, `L` and `R` only by acceptance of ENCRYPT or DECRYPT and by rounds, `DOUT` only by the last
round, and each with the value stated. -/
def Obligations.DataRegistersHaveTheirWriters : Prop :=
  ∀ s t : State, s.input.rst = false → step s = .next t →
    t.key = (if s.command = .loadkey ∧ accepts s.command s = true then s.input.keyIn else s.key) ∧
    (∀ i : Fin 4, t.rk.get i = if s.phase = .ks ∧ s.rnd.toFin = i then ksrk s.key i else s.rk.get i) ∧
    (s.phase ≠ .enc → s.phase ≠ .dec → ¬(needsKey s.command = true ∧ accepts s.command s = true) →
      t.l = s.l ∧ t.r = s.r) ∧
    (needsKey s.command = true → accepts s.command s = true → (t.l, t.r) = splitBlock s.input.din) ∧
    (s.phase = .enc → (t.l, t.r) = encRound Config.tables (s.l, s.r) (s.rk.get s.rnd.toFin)) ∧
    (s.phase = .dec → (t.l, t.r) = decRound Config.tables (s.l, s.r) (s.rk.get (Fin.rev s.rnd.toFin))) ∧
    t.dout = (if (s.phase = .enc ∨ s.phase = .dec) ∧ s.rnd.toNat = 3 then t.l ++ t.r else s.dout)

/-- 10_state.md R25, R26: `KVALID` is set by KS3 and cleared by acceptance of LOADKEY and by reset; `DONE` is set by the last
round and cleared by acceptance of any command and by reset; nothing else changes either, a fault included. -/
def Obligations.FlagsHaveTheirWriters : Prop :=
  ∀ s t : State, step s = .next t →
    t.kvalid = (if s.input.rst = true then false
      else if s.command = .loadkey ∧ accepts s.command s = true then false
      else if s.phase = .ks ∧ s.rnd.toNat = 3 then true
      else s.kvalid) ∧
    t.done = (if s.input.rst = true then false
      else if accepts s.command s = true then false
      else if (s.phase = .enc ∨ s.phase = .dec) ∧ s.rnd.toNat = 3 then true
      else s.done)

/-! ## Faults -/

/-- 60_exceptions.md R193 to R195: in an unfaulted state BUSY is raised exactly by a command presented to a busy CORE, NOKEY
exactly by ENCRYPT or DECRYPT presented to an idle CORE without a valid key, and no step raises anything else. -/
def Obligations.FaultsAreRaisedExactlyWhen : Prop :=
  ∀ s t : State, s.input.rst = false → s.fault = false → step s = .next t →
    (s.phase ≠ .idle ∧ s.input.cmd ≠ 0b00#2 → t.fault = true ∧ t.cause = 0b10#2) ∧
    (s.phase = .idle ∧ (s.input.cmd = 0b10#2 ∨ s.input.cmd = 0b11#2) ∧ s.kvalid = false →
      t.fault = true ∧ t.cause = 0b01#2) ∧
    (¬(s.phase ≠ .idle ∧ s.input.cmd ≠ 0b00#2) →
      ¬(s.phase = .idle ∧ (s.input.cmd = 0b10#2 ∨ s.input.cmd = 0b11#2) ∧ s.kvalid = false) →
      t.fault = false ∧ t.cause = s.cause)

/-- 60_exceptions.md R192: the state after a step that raises a fault is the state the step would have produced had the port
carried NOP, but for `FAULT` and `CAUSE`. -/
def Obligations.FaultsArePrecise : Prop :=
  ∀ (s : State) (v : Violation), s.input.rst = false → raised s.command s = some v →
    step s = andThen (step (s.setInput { s.input with cmd := 0b00#2 })) fun t =>
      .next { t with fault := true, cause := v.code }

/-- 60_exceptions.md R196: once set, `FAULT` and `CAUSE` keep their values through any number of steps without a reset, and
a reset step clears them. -/
def Obligations.FaultsAreStickyUntilReset : Prop :=
  (∀ (n : Nat) (s t : State), s.fault = true → s.NoReset n → runFor n s = .next t →
    t.fault = true ∧ t.cause = s.cause) ∧
  ∀ s t : State, s.input.rst = true → step s = .next t → t.fault = false ∧ t.cause = 0b00#2

/-- 60_exceptions.md R197: a faulted, idle CORE ignores every command and changes nothing for any number of steps without a
reset. -/
def Obligations.FaultedIdleCoreIsInert : Prop :=
  ∀ (n : Nat) (s : State), s.phase = .idle → s.rnd = 0 → s.fault = true → s.NoReset n →
    runFor n s = .next { s with script := s.script.drop n }

/-- 70_reset_and_hazards.md R225: a script that keeps HD2 and HD3 raises no fault. -/
def Obligations.DutifulHostRaisesNoFault : Prop :=
  ∀ (n : Nat) (s t : State), s.Safe → s.KeepsDuties n → runFor n s = .next t → t.Safe

/-! ## What does not matter -/

/-- 44_controller.md R169, 70_reset_and_hazards.md R227: under `rst` no other port matters; otherwise `key_in` matters only
to the acceptance of LOADKEY and `din` only to the acceptance of ENCRYPT or DECRYPT; and while `FAULT = 1` no port but
`rst` matters. -/
def Obligations.IgnoredPortsDoNotMatter : Prop :=
  ∀ (s : State) (a b : Input) (rest : List Input),
    (a.rst = true → b.rst = true →
      step { s with script := a :: rest } = step { s with script := b :: rest }) ∧
    (a.rst = false → b.rst = false → a.cmd = b.cmd →
      (a.cmd = 0b01#2 → accepts .loadkey s = true → a.keyIn = b.keyIn) →
      (a.cmd = 0b10#2 → accepts .encrypt s = true → a.din = b.din) →
      (a.cmd = 0b11#2 → accepts .decrypt s = true → a.din = b.din) →
      step { s with script := a :: rest } = step { s with script := b :: rest }) ∧
    (a.rst = false → b.rst = false → s.fault = true →
      step { s with script := a :: rest } = step { s with script := b :: rest })

/-- 10_state.md R33, R27: no rule depends on a register that holds no value. Two states that differ only in registers no
rule can read before they are written show the host the same outputs at every read, given the same draws (log 4), and step to two such
states, or are refused together. The statement holds for every value such registers have. -/
def Obligations.UnwrittenRegistersAreUnobservable : Prop :=
  ∀ s t : State, s.Agree t →
    (∀ n : Nat, s.outputs n = t.outputs n) ∧
    ((∃ s' t', step s = .next s' ∧ step t = .next t' ∧ s'.Agree t') ∨
      (step s = .refused .illegalUstep ∧ step t = .refused .illegalUstep))

/-! ## Invariants -/

/-- 10_state.md R34, made inductive: the six conditions, with the round keys below `RND` belonging to `KEY` during a key
load and `DONE` implying that `DOUT` has been written, are kept by every step from every state that meets them. -/
def Obligations.InvariantIsKeptByEveryStep : Prop :=
  ∀ s t : State, s.Inv → step s = .next t → t.Inv

/-- 10_state.md R33, R34: the invariant holds after every reset step, whatever the free values are. -/
def Obligations.InvariantHoldsAfterReset : Prop :=
  State.reset.Inv ∧ ∀ (n : Nat) (script : List Input), (State.afterReset n script).Inv

/-- 10_state.md R34: every state reachable from a reset step by any sequence of inputs meets conditions (a) to (f). The last
clause, that the machine steps in every one of them, is 44_controller.md R160's and not R34's. -/
def Obligations.ReachableStatesAreWellFormed : Prop :=
  ∀ s : State, Reachable s →
    (s.phase = .idle → s.rnd = 0) ∧
    (s.phase = .ks → s.kvalid = false ∧ s.done = false) ∧
    (s.phase = .enc ∨ s.phase = .dec → s.kvalid = true ∧ s.done = false) ∧
    ((s.fault = false → s.cause = 0b00#2) ∧ (s.fault = true → s.cause = 0b01#2 ∨ s.cause = 0b10#2)) ∧
    (s.kvalid = true → ∀ i : Fin 4, s.rk.get i = ksrk s.key i) ∧
    (s.done = true → s.phase = .idle) ∧
    ∃ t, step s = .next t

/-! ## Whole operations -/

/-- 44_controller.md R170: five steps from the acceptance of LOADKEY, with any commands on the port in the four later ones,
leave the key schedule of the key in `RK`; until the last of them `KVALID = 0` and the CORE is busy. -/
def Obligations.LoadkeyLoadsTheKeySchedule : Prop :=
  ∀ s : State, s.phase = .idle → s.rnd = 0 → s.fault = false → s.NoReset 5 → s.input.cmd = 0b01#2 →
    (∃ t, runFor 5 s = .next t ∧
      t.key = s.input.keyIn ∧ t.rk = keySchedule s.input.keyIn ∧ t.kvalid = true ∧ t.phase = .idle ∧ t.rnd = 0 ∧
      t.done = false ∧ t.dout = s.dout ∧ t.l = s.l ∧ t.r = s.r ∧ t.doutHeld = s.doutHeld ∧
      t.script = s.script.drop 5) ∧
    ∀ n : Nat, 1 ≤ n → n ≤ 4 → ∃ u, runFor n s = .next u ∧ u.kvalid = false ∧ u.busy = true

/-- 44_controller.md R171: five steps from the acceptance of ENCRYPT, with any commands on the port in the four later ones,
leave the encryption of the block on `DOUT` with `DONE = 1`, through the pairs of 43_feistel_round.md R144; in a state
that meets the invariant it is the encryption under the key schedule of `KEY`. -/
def Obligations.EncryptProducesTheCiphertext : Prop :=
  ∀ s : State, s.phase = .idle → s.rnd = 0 → s.fault = false → s.kvalid = true → s.NoReset 5 → s.input.cmd = 0b10#2 →
    (∃ t, runFor 5 s = .next t ∧
      t.dout = encryptBlock Config.tables s.rk s.input.din ∧ t.done = true ∧ t.phase = .idle ∧ t.rnd = 0 ∧
      t.l = t.dout.extractLsb' 16 16 ∧ t.r = t.dout.extractLsb' 0 16 ∧
      t.key = s.key ∧ t.rk = s.rk ∧ t.kvalid = true ∧ t.doutHeld = true ∧ t.script = s.script.drop 5 ∧
      (s.Inv → t.dout = encryptBlock Config.tables (keySchedule s.key) s.input.din)) ∧
    ∀ n : Nat, n ≤ 4 → ∃ u, runFor (n + 1) s = .next u ∧
      (u.l, u.r) = encPair Config.tables s.rk s.input.din n

/-- 44_controller.md R172, its first part: as for ENCRYPT, with the decryption of the block on `DOUT`. -/
def Obligations.DecryptProducesThePlaintext : Prop :=
  ∀ s : State, s.phase = .idle → s.rnd = 0 → s.fault = false → s.kvalid = true → s.NoReset 5 → s.input.cmd = 0b11#2 →
    (∃ t, runFor 5 s = .next t ∧
      t.dout = decryptBlock Config.tables s.rk s.input.din ∧ t.done = true ∧ t.phase = .idle ∧ t.rnd = 0 ∧
      t.l = t.dout.extractLsb' 16 16 ∧ t.r = t.dout.extractLsb' 0 16 ∧
      t.key = s.key ∧ t.rk = s.rk ∧ t.kvalid = true ∧ t.doutHeld = true ∧ t.script = s.script.drop 5 ∧
      (s.Inv → t.dout = decryptBlock Config.tables (keySchedule s.key) s.input.din)) ∧
    ∀ n : Nat, n ≤ 4 → ∃ u, runFor (n + 1) s = .next u ∧
      (u.l, u.r) = decPair Config.tables s.rk s.input.din n

/-- 44_controller.md R172, its second part: ENCRYPT of `P`, run to its end under NOPs, then DECRYPT of the `dout` it produced
leaves `dout = P`: the round trip at the ports, in ten steps and without a fault. -/
def Obligations.RoundTripAtThePorts : Prop :=
  ∀ s : State, s.phase = .idle → s.rnd = 0 → s.fault = false → s.kvalid = true → s.NoReset 10 →
    s.input.cmd = 0b10#2 → (s.inputAt 5).cmd = 0b11#2 →
    (∀ k : Nat, 1 ≤ k → k ≤ 9 → k ≠ 5 → (s.inputAt k).cmd = 0b00#2) →
    (∀ u, runFor 5 s = .next u → (s.inputAt 5).din = u.dout) →
    ∃ t, runFor 10 s = .next t ∧ (∀ n : Nat, t.doutPort n = s.input.din) ∧ t.done = true ∧ t.fault = false ∧
      t.phase = .idle ∧ t.rk = s.rk ∧ t.key = s.key

/-- 43_feistel_round.md R147: two COREs with valid round keys of the same key give the same `dout` for the same block,
whatever else their states hold and whatever their hosts present meanwhile. -/
def Obligations.SameKeyAndBlockGiveSameResult : Prop :=
  ∀ s s' : State, s.Inv → s'.Inv → s.phase = .idle → s'.phase = .idle → s.fault = false → s'.fault = false →
    s.kvalid = true → s'.kvalid = true → s.NoReset 5 → s'.NoReset 5 →
    (s.input.cmd = 0b10#2 ∨ s.input.cmd = 0b11#2) → s.input.cmd = s'.input.cmd → s.input.din = s'.input.din →
    s.key = s'.key →
    ∃ t t', runFor 5 s = .next t ∧ runFor 5 s' = .next t' ∧ t.done = true ∧ t'.done = true ∧
      ∀ n : Nat, t.doutPort n = t'.doutPort n

/-- 44_controller.md R173: a busy CORE that is not reset is idle again after exactly its remaining micro-steps, and not
before, whatever the host presents. -/
def Obligations.EveryOperationEnds : Prop :=
  ∀ s : State, s.phase ≠ .idle → s.NoReset (4 - s.rnd.toNat) →
    (∃ t, runFor (4 - s.rnd.toNat) s = .next t ∧ t.phase = .idle ∧ t.rnd = 0 ∧
      t.script = s.script.drop (4 - s.rnd.toNat)) ∧
    ∀ n : Nat, n < 4 - s.rnd.toNat → ∃ u, runFor n s = .next u ∧ u.phase = s.phase ∧ u.rnd.toNat = s.rnd.toNat + n

/-- 30_encoding.md R77: WAIT is no line for an idle CORE, and for a busy one NOPs that leave it idle with the rest of the
script to come; NEW, ENC and DEC are five lines where their command is accepted and one where it is not. -/
def Obligations.PseudoCommandsExpand : Prop :=
  (∀ s : State, s.phase = .idle → expand s .wait = []) ∧
  (∀ (s : State) (n : Nat), expand s (.nops n) = List.replicate n .nop) ∧
  (∀ s : State, s.phase ≠ .idle → (∀ l ∈ expand s .wait, l = .nop) ∧
    ∃ t, runFor (expand s .wait).length (s.withLines (expand s .wait)) = .next t ∧ t.phase = .idle ∧
      t.script = s.script ∧ t.fault = s.fault) ∧
  (∀ (s : State) (k : Key), accepts .loadkey s = true → expand s (.new k) = [.loadkey k, .nop, .nop, .nop, .nop]) ∧
  (∀ (s : State) (b : Block), accepts .encrypt s = true → expand s (.enc b) = [.encrypt b, .nop, .nop, .nop, .nop]) ∧
  (∀ (s : State) (b : Block), accepts .decrypt s = true → expand s (.dec b) = [.decrypt b, .nop, .nop, .nop, .nop]) ∧
  (∀ (s : State) (k : Key), s.phase = .idle → accepts .loadkey s = false → expand s (.new k) = [.loadkey k]) ∧
  (∀ (s : State) (b : Block), s.phase = .idle → accepts .encrypt s = false → expand s (.enc b) = [.encrypt b]) ∧
  ∀ (s : State) (b : Block), s.phase = .idle → accepts .decrypt s = false → expand s (.dec b) = [.decrypt b]

/-- 70_reset_and_hazards.md R220, R221: a reset in any state, in the middle of an operation too, abandons it; ENCRYPT or
DECRYPT presented next is not run with the old round keys but raises NOKEY. -/
def Obligations.ResetAbandonsTheOperation : Prop :=
  ∀ s : State, s.input.rst = true → (s.inputAt 1).rst = false →
    ((s.inputAt 1).cmd = 0b10#2 ∨ (s.inputAt 1).cmd = 0b11#2) →
    ∃ t, runFor 2 s = .next t ∧ t.fault = true ∧ t.cause = 0b01#2 ∧ t.phase = .idle ∧ t.done = false ∧
      t.kvalid = false ∧ t.doutHeld = false

/-! ## Ports and gates -/

/-- 10_state.md R30, R31: the STATUS view bit by bit; `busy` and `done` are never both 1 in a state that meets the
invariant. -/
def Obligations.StatusShowsTheFlags : Prop :=
  (∀ s : State,
    s.status.getLsbD 0 = s.busy ∧ s.status.getLsbD 1 = s.done ∧ s.status.getLsbD 2 = s.kvalid ∧
    s.status.getLsbD 3 = s.fault ∧ s.status.extractLsb' 4 2 = s.cause ∧ (s.busy = true ↔ s.phase ≠ .idle)) ∧
  (∀ s : State, s.Inv → ¬(s.busy = true ∧ s.done = true)) ∧
  State.reset.status = 0#6

/-- 10_state.md R27, R23, 70_reset_and_hazards.md R228: `dout` shows the new halves from the state after the last round on,
at every read, and a step without a reset that completes no ENCRYPT or DECRYPT leaves what the port shows. While `DOUT` has
not been written since reset, R27 gives a fresh draw at every read: there the second clause compares two reads that have
the same number and so, by the model's choice (log 4), the same draw. -/
def Obligations.DoutShowsTheLastResult : Prop :=
  (∀ s t : State, s.input.rst = false → s.phase = .enc ∨ s.phase = .dec → s.rnd.toNat = 3 → step s = .next t →
    t.done = true ∧ ∀ n : Nat, t.doutPort n = t.l ++ t.r) ∧
  (∀ s t : State, s.input.rst = false → ¬((s.phase = .enc ∨ s.phase = .dec) ∧ s.rnd.toNat = 3) → step s = .next t →
    ∀ n : Nat, t.doutPort n = s.doutPort n) ∧
  ∀ s : State, s.Inv → s.done = true → ∀ n : Nat, s.doutPort n = s.dout

/-- 10_state.md R33: the values the spec gives for the state after reset. The data registers are not spoken of. -/
def Obligations.ResetValues : Prop :=
  State.reset.phase = .idle ∧ State.reset.rnd = 0b00#2 ∧ State.reset.kvalid = false ∧ State.reset.done = false ∧
  State.reset.fault = false ∧ State.reset.cause = 0b00#2

/-- 93_implementation_defined.md U11 to U13: the gate for states given from outside lets through the well-formed ones
and refuses all others by name, each kind listed there among them. -/
def Obligations.GateRefusesIllFormedStates : Prop :=
  (∀ s : State, s.Wf → s.gate = .next s) ∧
  (∀ s : State, ¬s.Wf → s.gate = .refused .illFormedState) ∧
  ∀ s : State,
    ((s.phase = .idle ∧ s.rnd ≠ 0) ∨ s.cause = 0b11#2 ∨ (s.cause ≠ 0b00#2 ∧ s.fault = false) ∨
      (s.cause = 0b00#2 ∧ s.fault = true) ∨ (s.kvalid = true ∧ s.rk ≠ keySchedule s.key) ∨
      ((s.phase = .enc ∨ s.phase = .dec) ∧ s.kvalid = false) ∨ (s.done = true ∧ s.phase ≠ .idle)) →
    s.gate = .refused .illFormedState
end

