-- ==== Sys2Proof/Laws/Cipher.lean ====
section
/-! SUPPORT. The lemmas of the cipher's functions: bits of a rotation and of a permutation, and the two tables as
bijections. -/

namespace Sys2Proof.Machine

/-- Two 16-bit values with equal bits are equal. -/
theorem half_ext (x y : Half) (h : ∀ i : Fin 16, x.getLsbD i.val = y.getLsbD i.val) : x = y :=
  BitVec.eq_of_getLsbD_eq fun i hi => h ⟨i, hi⟩

/-- The bits of R114's loop so far: those set before, and the target of every 1 bit passed. -/
theorem foldl_permStep (t : Tables) (y p : Half) (l : List (Fin 16)) (j : Fin 16) :
    (l.foldl (permStep t y) p).getLsbD j.val = true ↔
      p.getLsbD j.val = true ∨ ∃ i ∈ l, y.getLsbD i.val = true ∧ pbox0 t i = j := by
  induction l generalizing p with
  | nil => simp
  | cons a l ih =>
    rw [List.foldl_cons, ih]
    by_cases hy : y.getLsbD a.val = true
    · have hb : (BitVec.twoPow 16 (pbox0 t a).val).getLsbD j.val = true ↔ pbox0 t a = j := by
        simp [Fin.ext_iff, eq_comm]
      simp only [permStep, hy, if_true, BitVec.getLsbD_or, Bool.or_eq_true, hb, List.mem_cons]
      constructor
      · rintro ((h | h) | ⟨i, hi, h⟩)
        · exact .inl h
        · exact .inr ⟨a, .inl rfl, hy, h⟩
        · exact .inr ⟨i, .inr hi, h⟩
      · rintro (h | ⟨i, rfl | hi, h⟩)
        · exact .inl (.inl h)
        · exact .inl (.inr h.2)
        · exact .inr ⟨i, hi, h⟩
    · simp only [permStep, hy, List.mem_cons]
      constructor
      · rintro (h | ⟨i, hi, h⟩)
        · exact .inl h
        · exact .inr ⟨i, .inr hi, h⟩
      · rintro (h | ⟨i, rfl | hi, h⟩)
        · exact .inl h
        · exact absurd h.1 hy
        · exact .inr ⟨i, hi, h⟩

theorem mem_all16 (i : Fin 16) :
    i ∈ ([0, 1, 2, 3, 4, 5, 6, 7, 8, 9, 10, 11, 12, 13, 14, 15] : List (Fin 16)) := by
  revert i; decide

/-- With a well-formed table every target position is some entry of `PBOX1`, in the stored form. -/
theorem pbox1_hits (t : Tables) (h : t.PboxWf) (j : Fin 16) :
    ∃ i : Fin 16, t.pbox1[i] = BitVec.ofNat 5 (j.val + 1) := by
  have hm : BitVec.ofNat 5 (j.val + 1) ∈ t.pbox1.toList := by
    rw [← List.count_pos_iff, h j]; exact Nat.one_pos
  rw [Vector.mem_toList_iff, Vector.mem_iff_getElem] at hm
  obtain ⟨i, hi, he⟩ := hm
  exact ⟨⟨i, hi⟩, he⟩

theorem pbox0_of_pbox1 (t : Tables) (i j : Fin 16) (h : t.pbox1[i] = BitVec.ofNat 5 (j.val + 1)) : pbox0 t i = j := by
  simp only [pbox0, h]
  clear h
  revert j; decide

/-- A well-formed P-box is a bijection on bit positions (00_scope.md R8). -/
theorem pbox0_bijective (t : Tables) (h : t.PboxWf) : Function.Bijective (pbox0 t) := by
  refine Function.Surjective.bijective_of_finite fun j => ?_
  obtain ⟨i, hi⟩ := pbox1_hits t h j
  exact ⟨i, pbox0_of_pbox1 t i j hi⟩

/-- The read of a well-formed S-box is a bijection on nibbles (00_scope.md R8). -/
theorem sboxRead_bijective (t : Tables) (h : t.SboxWf) : Function.Bijective (sboxRead t) := by
  have hs : Function.Surjective fun n : Fin 16 => (sboxRead t (BitVec.ofFin n)).toFin := by
    intro v
    have hm : BitVec.ofFin v ∈ t.sbox.toList := by
      rw [← List.count_pos_iff, h v]; exact Nat.one_pos
    rw [Vector.mem_toList_iff, Vector.mem_iff_getElem] at hm
    obtain ⟨i, hi, he⟩ := hm
    exact ⟨⟨i, hi⟩, by simpa [sboxRead] using congrArg BitVec.toFin he⟩
  have hb := hs.bijective_of_finite
  constructor
  · intro a b hab
    have := @hb.1 a.toFin b.toFin (by simpa using congrArg BitVec.toFin hab)
    exact BitVec.eq_of_toFin_eq this
  · intro v
    obtain ⟨n, hn⟩ := hb.2 v.toFin
    exact ⟨BitVec.ofFin n, BitVec.eq_of_toFin_eq hn⟩

end Sys2Proof.Machine
end

