-- ==== Sys2Proof/Laws/State.lean ====
section
/-! SUPPORT. What each update of the state does to each field, so that no proof unfolds a record update; and what the state
after a reset step holds. -/

namespace Sys2Proof.Machine

/-! Fields of `raiseFault`. -/

@[simp] theorem raiseFault_key (v : Violation) (s : State) : (raiseFault v s).key = s.key := rfl
@[simp] theorem raiseFault_rk (v : Violation) (s : State) : (raiseFault v s).rk = s.rk := rfl
@[simp] theorem raiseFault_l (v : Violation) (s : State) : (raiseFault v s).l = s.l := rfl
@[simp] theorem raiseFault_r (v : Violation) (s : State) : (raiseFault v s).r = s.r := rfl
@[simp] theorem raiseFault_dout (v : Violation) (s : State) : (raiseFault v s).dout = s.dout := rfl
@[simp] theorem raiseFault_phase (v : Violation) (s : State) : (raiseFault v s).phase = s.phase := rfl
@[simp] theorem raiseFault_rnd (v : Violation) (s : State) : (raiseFault v s).rnd = s.rnd := rfl
@[simp] theorem raiseFault_kvalid (v : Violation) (s : State) : (raiseFault v s).kvalid = s.kvalid := rfl
@[simp] theorem raiseFault_done (v : Violation) (s : State) : (raiseFault v s).done = s.done := rfl
@[simp] theorem raiseFault_fault (v : Violation) (s : State) : (raiseFault v s).fault = true := rfl
@[simp] theorem raiseFault_cause (v : Violation) (s : State) : (raiseFault v s).cause = v.code := rfl
@[simp] theorem raiseFault_doutHeld (v : Violation) (s : State) : (raiseFault v s).doutHeld = s.doutHeld := rfl
@[simp] theorem raiseFault_resets (v : Violation) (s : State) : (raiseFault v s).resets = s.resets := rfl
@[simp] theorem raiseFault_script (v : Violation) (s : State) : (raiseFault v s).script = s.script := rfl

/-! Fields of `advance`. -/

@[simp] theorem advance_key (s : State) : (s.advance).key = s.key := rfl
@[simp] theorem advance_rk (s : State) : (s.advance).rk = s.rk := rfl
@[simp] theorem advance_l (s : State) : (s.advance).l = s.l := rfl
@[simp] theorem advance_r (s : State) : (s.advance).r = s.r := rfl
@[simp] theorem advance_dout (s : State) : (s.advance).dout = s.dout := rfl
@[simp] theorem advance_phase (s : State) : (s.advance).phase = s.phase := rfl
@[simp] theorem advance_rnd (s : State) : (s.advance).rnd = s.rnd := rfl
@[simp] theorem advance_kvalid (s : State) : (s.advance).kvalid = s.kvalid := rfl
@[simp] theorem advance_done (s : State) : (s.advance).done = s.done := rfl
@[simp] theorem advance_fault (s : State) : (s.advance).fault = s.fault := rfl
@[simp] theorem advance_cause (s : State) : (s.advance).cause = s.cause := rfl
@[simp] theorem advance_doutHeld (s : State) : (s.advance).doutHeld = s.doutHeld := rfl
@[simp] theorem advance_resets (s : State) : (s.advance).resets = s.resets := rfl
@[simp] theorem advance_script (s : State) : (s.advance).script = s.script.tail := rfl

/-! Fields of `acceptKey`. -/

@[simp] theorem acceptKey_key (k : Key) (s : State) : (acceptKey k s).key = k := rfl
@[simp] theorem acceptKey_rk (k : Key) (s : State) : (acceptKey k s).rk = s.rk := rfl
@[simp] theorem acceptKey_l (k : Key) (s : State) : (acceptKey k s).l = s.l := rfl
@[simp] theorem acceptKey_r (k : Key) (s : State) : (acceptKey k s).r = s.r := rfl
@[simp] theorem acceptKey_dout (k : Key) (s : State) : (acceptKey k s).dout = s.dout := rfl
@[simp] theorem acceptKey_phase (k : Key) (s : State) : (acceptKey k s).phase = .ks := rfl
@[simp] theorem acceptKey_rnd (k : Key) (s : State) : (acceptKey k s).rnd = 0 := rfl
@[simp] theorem acceptKey_kvalid (k : Key) (s : State) : (acceptKey k s).kvalid = false := rfl
@[simp] theorem acceptKey_done (k : Key) (s : State) : (acceptKey k s).done = false := rfl
@[simp] theorem acceptKey_fault (k : Key) (s : State) : (acceptKey k s).fault = s.fault := rfl
@[simp] theorem acceptKey_cause (k : Key) (s : State) : (acceptKey k s).cause = s.cause := rfl
@[simp] theorem acceptKey_doutHeld (k : Key) (s : State) : (acceptKey k s).doutHeld = s.doutHeld := rfl
@[simp] theorem acceptKey_resets (k : Key) (s : State) : (acceptKey k s).resets = s.resets := rfl
@[simp] theorem acceptKey_script (k : Key) (s : State) : (acceptKey k s).script = s.script := rfl

/-! Fields of `acceptBlock`. -/

@[simp] theorem acceptBlock_key (p : Phase) (lr : Half × Half) (s : State) : (acceptBlock p lr s).key = s.key := rfl
@[simp] theorem acceptBlock_rk (p : Phase) (lr : Half × Half) (s : State) : (acceptBlock p lr s).rk = s.rk := rfl
@[simp] theorem acceptBlock_l (p : Phase) (lr : Half × Half) (s : State) : (acceptBlock p lr s).l = lr.1 := rfl
@[simp] theorem acceptBlock_r (p : Phase) (lr : Half × Half) (s : State) : (acceptBlock p lr s).r = lr.2 := rfl
@[simp] theorem acceptBlock_dout (p : Phase) (lr : Half × Half) (s : State) : (acceptBlock p lr s).dout = s.dout := rfl
@[simp] theorem acceptBlock_phase (p : Phase) (lr : Half × Half) (s : State) : (acceptBlock p lr s).phase = p := rfl
@[simp] theorem acceptBlock_rnd (p : Phase) (lr : Half × Half) (s : State) : (acceptBlock p lr s).rnd = 0 := rfl
@[simp] theorem acceptBlock_kvalid (p : Phase) (lr : Half × Half) (s : State) : (acceptBlock p lr s).kvalid = s.kvalid := rfl
@[simp] theorem acceptBlock_done (p : Phase) (lr : Half × Half) (s : State) : (acceptBlock p lr s).done = false := rfl
@[simp] theorem acceptBlock_fault (p : Phase) (lr : Half × Half) (s : State) : (acceptBlock p lr s).fault = s.fault := rfl
@[simp] theorem acceptBlock_cause (p : Phase) (lr : Half × Half) (s : State) : (acceptBlock p lr s).cause = s.cause := rfl
@[simp] theorem acceptBlock_doutHeld (p : Phase) (lr : Half × Half) (s : State) : (acceptBlock p lr s).doutHeld = s.doutHeld := rfl
@[simp] theorem acceptBlock_resets (p : Phase) (lr : Half × Half) (s : State) : (acceptBlock p lr s).resets = s.resets := rfl
@[simp] theorem acceptBlock_script (p : Phase) (lr : Half × Half) (s : State) : (acceptBlock p lr s).script = s.script := rfl

/-! Fields of `writeRk`. -/

@[simp] theorem writeRk_key (i : Fin 4) (v : Half) (s : State) : (writeRk i v s).key = s.key := rfl
@[simp] theorem writeRk_rk (i : Fin 4) (v : Half) (s : State) : (writeRk i v s).rk = s.rk.set i v := rfl
@[simp] theorem writeRk_l (i : Fin 4) (v : Half) (s : State) : (writeRk i v s).l = s.l := rfl
@[simp] theorem writeRk_r (i : Fin 4) (v : Half) (s : State) : (writeRk i v s).r = s.r := rfl
@[simp] theorem writeRk_dout (i : Fin 4) (v : Half) (s : State) : (writeRk i v s).dout = s.dout := rfl
@[simp] theorem writeRk_phase (i : Fin 4) (v : Half) (s : State) : (writeRk i v s).phase = s.phase := rfl
@[simp] theorem writeRk_rnd (i : Fin 4) (v : Half) (s : State) : (writeRk i v s).rnd = s.rnd := rfl
@[simp] theorem writeRk_kvalid (i : Fin 4) (v : Half) (s : State) : (writeRk i v s).kvalid = s.kvalid := rfl
@[simp] theorem writeRk_done (i : Fin 4) (v : Half) (s : State) : (writeRk i v s).done = s.done := rfl
@[simp] theorem writeRk_fault (i : Fin 4) (v : Half) (s : State) : (writeRk i v s).fault = s.fault := rfl
@[simp] theorem writeRk_cause (i : Fin 4) (v : Half) (s : State) : (writeRk i v s).cause = s.cause := rfl
@[simp] theorem writeRk_doutHeld (i : Fin 4) (v : Half) (s : State) : (writeRk i v s).doutHeld = s.doutHeld := rfl
@[simp] theorem writeRk_resets (i : Fin 4) (v : Half) (s : State) : (writeRk i v s).resets = s.resets := rfl
@[simp] theorem writeRk_script (i : Fin 4) (v : Half) (s : State) : (writeRk i v s).script = s.script := rfl

/-! Fields of `writeHalves`. -/

@[simp] theorem writeHalves_key (lr : Half × Half) (s : State) : (writeHalves lr s).key = s.key := rfl
@[simp] theorem writeHalves_rk (lr : Half × Half) (s : State) : (writeHalves lr s).rk = s.rk := rfl
@[simp] theorem writeHalves_l (lr : Half × Half) (s : State) : (writeHalves lr s).l = lr.1 := rfl
@[simp] theorem writeHalves_r (lr : Half × Half) (s : State) : (writeHalves lr s).r = lr.2 := rfl
@[simp] theorem writeHalves_dout (lr : Half × Half) (s : State) : (writeHalves lr s).dout = s.dout := rfl
@[simp] theorem writeHalves_phase (lr : Half × Half) (s : State) : (writeHalves lr s).phase = s.phase := rfl
@[simp] theorem writeHalves_rnd (lr : Half × Half) (s : State) : (writeHalves lr s).rnd = s.rnd := rfl
@[simp] theorem writeHalves_kvalid (lr : Half × Half) (s : State) : (writeHalves lr s).kvalid = s.kvalid := rfl
@[simp] theorem writeHalves_done (lr : Half × Half) (s : State) : (writeHalves lr s).done = s.done := rfl
@[simp] theorem writeHalves_fault (lr : Half × Half) (s : State) : (writeHalves lr s).fault = s.fault := rfl
@[simp] theorem writeHalves_cause (lr : Half × Half) (s : State) : (writeHalves lr s).cause = s.cause := rfl
@[simp] theorem writeHalves_doutHeld (lr : Half × Half) (s : State) : (writeHalves lr s).doutHeld = s.doutHeld := rfl
@[simp] theorem writeHalves_resets (lr : Half × Half) (s : State) : (writeHalves lr s).resets = s.resets := rfl
@[simp] theorem writeHalves_script (lr : Half × Half) (s : State) : (writeHalves lr s).script = s.script := rfl

/-! Fields of `nextRnd`. -/

@[simp] theorem nextRnd_key (i : Fin 4) (s : State) : (nextRnd i s).key = s.key := rfl
@[simp] theorem nextRnd_rk (i : Fin 4) (s : State) : (nextRnd i s).rk = s.rk := rfl
@[simp] theorem nextRnd_l (i : Fin 4) (s : State) : (nextRnd i s).l = s.l := rfl
@[simp] theorem nextRnd_r (i : Fin 4) (s : State) : (nextRnd i s).r = s.r := rfl
@[simp] theorem nextRnd_dout (i : Fin 4) (s : State) : (nextRnd i s).dout = s.dout := rfl
@[simp] theorem nextRnd_phase (i : Fin 4) (s : State) : (nextRnd i s).phase = s.phase := rfl
@[simp] theorem nextRnd_rnd (i : Fin 4) (s : State) : (nextRnd i s).rnd = BitVec.ofFin i + 1 := rfl
@[simp] theorem nextRnd_kvalid (i : Fin 4) (s : State) : (nextRnd i s).kvalid = s.kvalid := rfl
@[simp] theorem nextRnd_done (i : Fin 4) (s : State) : (nextRnd i s).done = s.done := rfl
@[simp] theorem nextRnd_fault (i : Fin 4) (s : State) : (nextRnd i s).fault = s.fault := rfl
@[simp] theorem nextRnd_cause (i : Fin 4) (s : State) : (nextRnd i s).cause = s.cause := rfl
@[simp] theorem nextRnd_doutHeld (i : Fin 4) (s : State) : (nextRnd i s).doutHeld = s.doutHeld := rfl
@[simp] theorem nextRnd_resets (i : Fin 4) (s : State) : (nextRnd i s).resets = s.resets := rfl
@[simp] theorem nextRnd_script (i : Fin 4) (s : State) : (nextRnd i s).script = s.script := rfl

/-! Fields of `finishKey`. -/

@[simp] theorem finishKey_key (s : State) : (finishKey s).key = s.key := rfl
@[simp] theorem finishKey_rk (s : State) : (finishKey s).rk = s.rk := rfl
@[simp] theorem finishKey_l (s : State) : (finishKey s).l = s.l := rfl
@[simp] theorem finishKey_r (s : State) : (finishKey s).r = s.r := rfl
@[simp] theorem finishKey_dout (s : State) : (finishKey s).dout = s.dout := rfl
@[simp] theorem finishKey_phase (s : State) : (finishKey s).phase = .idle := rfl
@[simp] theorem finishKey_rnd (s : State) : (finishKey s).rnd = 0 := rfl
@[simp] theorem finishKey_kvalid (s : State) : (finishKey s).kvalid = true := rfl
@[simp] theorem finishKey_done (s : State) : (finishKey s).done = s.done := rfl
@[simp] theorem finishKey_fault (s : State) : (finishKey s).fault = s.fault := rfl
@[simp] theorem finishKey_cause (s : State) : (finishKey s).cause = s.cause := rfl
@[simp] theorem finishKey_doutHeld (s : State) : (finishKey s).doutHeld = s.doutHeld := rfl
@[simp] theorem finishKey_resets (s : State) : (finishKey s).resets = s.resets := rfl
@[simp] theorem finishKey_script (s : State) : (finishKey s).script = s.script := rfl

/-! Fields of `finishBlock`. -/

@[simp] theorem finishBlock_key (lr : Half × Half) (s : State) : (finishBlock lr s).key = s.key := rfl
@[simp] theorem finishBlock_rk (lr : Half × Half) (s : State) : (finishBlock lr s).rk = s.rk := rfl
@[simp] theorem finishBlock_l (lr : Half × Half) (s : State) : (finishBlock lr s).l = s.l := rfl
@[simp] theorem finishBlock_r (lr : Half × Half) (s : State) : (finishBlock lr s).r = s.r := rfl
@[simp] theorem finishBlock_dout (lr : Half × Half) (s : State) : (finishBlock lr s).dout = joinBlock lr := rfl
@[simp] theorem finishBlock_phase (lr : Half × Half) (s : State) : (finishBlock lr s).phase = .idle := rfl
@[simp] theorem finishBlock_rnd (lr : Half × Half) (s : State) : (finishBlock lr s).rnd = 0 := rfl
@[simp] theorem finishBlock_kvalid (lr : Half × Half) (s : State) : (finishBlock lr s).kvalid = s.kvalid := rfl
@[simp] theorem finishBlock_done (lr : Half × Half) (s : State) : (finishBlock lr s).done = true := rfl
@[simp] theorem finishBlock_fault (lr : Half × Half) (s : State) : (finishBlock lr s).fault = s.fault := rfl
@[simp] theorem finishBlock_cause (lr : Half × Half) (s : State) : (finishBlock lr s).cause = s.cause := rfl
@[simp] theorem finishBlock_doutHeld (lr : Half × Half) (s : State) : (finishBlock lr s).doutHeld = true := rfl
@[simp] theorem finishBlock_resets (lr : Half × Half) (s : State) : (finishBlock lr s).resets = s.resets := rfl
@[simp] theorem finishBlock_script (lr : Half × Half) (s : State) : (finishBlock lr s).script = s.script := rfl

/-! Fields of `setInput`. -/

@[simp] theorem setInput_key (s : State) (a : Input) : (s.setInput a).key = s.key := rfl
@[simp] theorem setInput_rk (s : State) (a : Input) : (s.setInput a).rk = s.rk := rfl
@[simp] theorem setInput_l (s : State) (a : Input) : (s.setInput a).l = s.l := rfl
@[simp] theorem setInput_r (s : State) (a : Input) : (s.setInput a).r = s.r := rfl
@[simp] theorem setInput_dout (s : State) (a : Input) : (s.setInput a).dout = s.dout := rfl
@[simp] theorem setInput_phase (s : State) (a : Input) : (s.setInput a).phase = s.phase := rfl
@[simp] theorem setInput_rnd (s : State) (a : Input) : (s.setInput a).rnd = s.rnd := rfl
@[simp] theorem setInput_kvalid (s : State) (a : Input) : (s.setInput a).kvalid = s.kvalid := rfl
@[simp] theorem setInput_done (s : State) (a : Input) : (s.setInput a).done = s.done := rfl
@[simp] theorem setInput_fault (s : State) (a : Input) : (s.setInput a).fault = s.fault := rfl
@[simp] theorem setInput_cause (s : State) (a : Input) : (s.setInput a).cause = s.cause := rfl
@[simp] theorem setInput_doutHeld (s : State) (a : Input) : (s.setInput a).doutHeld = s.doutHeld := rfl
@[simp] theorem setInput_resets (s : State) (a : Input) : (s.setInput a).resets = s.resets := rfl
@[simp] theorem setInput_script (s : State) (a : Input) : (s.setInput a).script = a :: s.script.tail := rfl

/-! The specified fields after reset step `n` (10_state.md R33). -/

@[simp] theorem afterReset_phase (n : Nat) (sc : List Input) : (State.afterReset n sc).phase = .idle := rfl
@[simp] theorem afterReset_rnd (n : Nat) (sc : List Input) : (State.afterReset n sc).rnd = 0 := rfl
@[simp] theorem afterReset_kvalid (n : Nat) (sc : List Input) : (State.afterReset n sc).kvalid = false := rfl
@[simp] theorem afterReset_done (n : Nat) (sc : List Input) : (State.afterReset n sc).done = false := rfl
@[simp] theorem afterReset_fault (n : Nat) (sc : List Input) : (State.afterReset n sc).fault = false := rfl
@[simp] theorem afterReset_cause (n : Nat) (sc : List Input) : (State.afterReset n sc).cause = 0 := rfl
@[simp] theorem afterReset_doutHeld (n : Nat) (sc : List Input) : (State.afterReset n sc).doutHeld = false := rfl
@[simp] theorem afterReset_resets (n : Nat) (sc : List Input) : (State.afterReset n sc).resets = n := rfl
@[simp] theorem afterReset_script (n : Nat) (sc : List Input) : (State.afterReset n sc).script = sc := rfl

theorem hostReset_eq (s : State) : hostReset s = State.afterReset (s.resets + 1) s.script := rfl

/-- Two states with equal fields are equal. -/
theorem state_ext (s t : State) (h1 : s.key = t.key) (h2 : s.rk = t.rk) (h3 : s.l = t.l) (h4 : s.r = t.r)
    (h5 : s.dout = t.dout) (h6 : s.phase = t.phase) (h7 : s.rnd = t.rnd) (h8 : s.kvalid = t.kvalid)
    (h9 : s.done = t.done) (h10 : s.fault = t.fault) (h11 : s.cause = t.cause) (h12 : s.doutHeld = t.doutHeld)
    (h13 : s.resets = t.resets) (h14 : s.script = t.script) : s = t := by
  cases s; cases t; simp_all

/-- What was written to the round-key file is read back. -/
@[simp] theorem get_set_same (rk : RoundKeys) (i : Fin 4) (v : Half) : (rk.set i v).get i = v := by
  fin_cases i <;> rfl

/-- A write to one entry of the round-key file leaves the others. -/
theorem get_set_other (rk : RoundKeys) (i j : Fin 4) (v : Half) (h : j ≠ i) : (rk.set i v).get j = rk.get j := by
  revert h; fin_cases i <;> fin_cases j <;> intro h <;> first | rfl | exact absurd rfl h

/-- A round-key file is its four entries. -/
theorem roundKeys_ext (a b : RoundKeys) (h : ∀ i : Fin 4, a.get i = b.get i) : a = b := by
  cases a; cases b
  have h0 := h 0; have h1 := h 1; have h2 := h 2; have h3 := h 3
  simp_all [RoundKeys.get]

@[simp] theorem keySchedule_get (key : Key) (i : Fin 4) : (keySchedule key).get i = ksrk key i := by
  fin_cases i <;> rfl

end Sys2Proof.Machine
end

