-- ==== Sys2Proof/Laws/Step.lean ====
section
/-! SUPPORT. What each shared operation, each instruction's meaning and a step can do, said once. -/

namespace Sys2Proof.Machine

/-! The input lines. -/

@[simp] theorem inputAt_advance (s : State) (k : Nat) : s.advance.inputAt k = s.inputAt (k + 1) := by
  cases h : s.script <;> simp [State.inputAt, h]

theorem input_eq (s : State) : s.input = s.inputAt 0 := rfl

/-- `inputAt` looks at the script only. -/
theorem inputAt_congr (s t : State) (h : s.script = t.script) (k : Nat) : s.inputAt k = t.inputAt k := by
  simp [State.inputAt, h]

/-! Presenting a command. -/

theorem raised_nop (s : State) : raised .nop s = none := by
  simp [raised]

theorem raised_of_fault (c : Cmd) (s : State) (h : s.fault = true) : raised c s = none := by
  simp [raised, h]

/-- A fault that is raised is raised in an unfaulted state by a command other than NOP. -/
theorem raised_some (c : Cmd) (s : State) (v : Violation) (h : raised c s = some v) :
    s.fault = false ∧ c ≠ .nop ∧
      ((v = .busy ∧ s.phase ≠ .idle) ∨ (v = .nokey ∧ s.phase = .idle ∧ needsKey c = true ∧ s.kvalid = false)) := by
  unfold raised at h
  split at h
  · cases h
  · split at h
    · cases h
    · split at h
      · cases h; simp_all
      · split at h
        · cases h; simp_all
        · cases h

/-- An accepted command raises nothing. -/
theorem raised_of_accepts (c : Cmd) (s : State) (h : accepts c s = true) : raised c s = none := by
  simp only [accepts, Bool.and_eq_true, Bool.or_eq_true, Bool.not_eq_true', decide_eq_true_eq] at h
  obtain ⟨⟨⟨h1, h2⟩, h3⟩, h4⟩ := h
  rcases h4 with h4 | h4 <;> simp [raised, h1, h2, h3, h4]

theorem accepts_iff (c : Cmd) (s : State) :
    accepts c s = true ↔ c ≠ .nop ∧ s.phase = .idle ∧ s.fault = false ∧ (needsKey c = true → s.kvalid = true) := by
  cases c <;> simp [accepts, needsKey, and_assoc]

/-- All that presenting a command can do: raise a fault, be accepted, or nothing. -/
theorem present_cases (c : Cmd) (f : State → State) (s : State) :
    (∃ v, raised c s = some v ∧ present c f s = raiseFault v s) ∨
    (raised c s = none ∧ accepts c s = true ∧ present c f s = f s) ∨
    (raised c s = none ∧ accepts c s = false ∧ present c f s = s) := by
  unfold present
  cases h : raised c s with
  | some v => exact .inl ⟨v, rfl, rfl⟩
  | none => cases h2 : accepts c s <;> simp

/-- In a busy controller a presented command can only raise a fault. -/
theorem present_busy (c : Cmd) (f : State → State) (s : State) (h : s.phase ≠ .idle) :
    present c f s = present c id s := by
  rcases present_cases c f s with ⟨v, h1, h2⟩ | ⟨_, h2, _⟩ | ⟨h1, h2, h3⟩
  · rw [h2]; simp [present, h1]
  · exact absurd ((accepts_iff c s).1 h2).2.1 h
  · rw [h3]; simp [present, h1]

/-- The acceptance that belongs to a command (R95, R163, R164). -/
def acceptOf (c : Cmd) (s : State) : State → State :=
  match c with
  | .nop => id
  | .loadkey => acceptKey s.keyOperand
  | .encrypt => acceptBlock .enc s.blockOperand
  | .decrypt => acceptBlock .dec s.blockOperand

/-- Every command's meaning is presenting it. -/
theorem exec_command (c : Cmd) (s : State) : exec c.instr s = .next (present c (acceptOf c s) s) := by
  cases c
  · simp [Cmd.instr, exec, execNop, present, raised_nop, accepts]
  all_goals rfl

theorem exec_idle (s : State) : exec .idle s = exec (fetchCommand s) s := by
  simp only [exec, execIdle, fetchCommand]
  cases s.command <;> rfl

/-- The micro-step a busy controller performs. -/
def microOf (p : Phase) (i : Fin 4) : State → State :=
  match p with
  | .idle => id
  | .ks => ksMicroStep i
  | .enc => encMicroStep Config.tables i
  | .dec => decMicroStep Config.tables i

theorem bv2_cases (x : BitVec 2) : x = 0 ∨ x = 1 ∨ x = 2 ∨ x = 3 := by
  revert x; decide

theorem runWords_idle (s : State) (h : s.phase = .idle) (h0 : s.rnd = 0) :
    runWords s = .next (present s.command (acceptOf s.command s) s) := by
  have : fetchUstep s = .ok .idle := by simp [fetchUstep, decodeUstep, h, h0]
  simp only [runWords, this]
  rw [exec_idle, fetchCommand, exec_command]

theorem runWords_idle_illegal (s : State) (h : s.phase = .idle) (h0 : s.rnd ≠ 0) :
    runWords s = .refused .illegalUstep := by
  have : fetchUstep s = .error .illegalUstep := by simpa [fetchUstep, decodeUstep, h] using h0
  simp only [runWords, this]

/-- A busy controller runs the presented command's meaning and then the micro-step's. -/
theorem runWords_ok (s : State) (u : Instr) (hu : fetchUstep s = .ok u) (hne : u ≠ .idle) :
    runWords s = andThen (exec (fetchCommand s) s) (exec u) := by
  unfold runWords
  rw [hu]
  cases u <;> first | rfl | exact absurd rfl hne

/-- The word `PHASE ++ RND` of a busy controller names its micro-step. -/
theorem fetchUstep_busy (s : State) (h : s.phase ≠ .idle) :
    ∃ u, fetchUstep s = .ok u ∧ u ≠ .idle ∧ ∀ t, exec u t = .next (microOf s.phase s.rnd.toFin t) := by
  cases hp : s.phase with
  | idle => exact absurd hp h
  | ks =>
    rcases bv2_cases s.rnd with hr | hr | hr | hr <;>
      (simp only [fetchUstep, decodeUstep, hp, hr]; exact ⟨_, rfl, by decide, fun _ => rfl⟩)
  | enc =>
    rcases bv2_cases s.rnd with hr | hr | hr | hr <;>
      (simp only [fetchUstep, decodeUstep, hp, hr]; exact ⟨_, rfl, by decide, fun _ => rfl⟩)
  | dec =>
    rcases bv2_cases s.rnd with hr | hr | hr | hr <;>
      (simp only [fetchUstep, decodeUstep, hp, hr]; exact ⟨_, rfl, by decide, fun _ => rfl⟩)

theorem runWords_busy (s : State) (h : s.phase ≠ .idle) :
    runWords s = .next (microOf s.phase s.rnd.toFin (present s.command id s)) := by
  obtain ⟨u, hu, hne, hx⟩ := fetchUstep_busy s h
  rw [runWords_ok s u hu hne, fetchCommand, exec_command, present_busy _ _ _ h, andThen, hx]

/-! The step. -/

theorem step_reset (s : State) (h : s.input.rst = true) : step s = .next (hostReset s).advance := by
  simp [step, runStep, h]

theorem step_idle (s : State) (hr : s.input.rst = false) (h : s.phase = .idle) (h0 : s.rnd = 0) :
    step s = .next (present s.command (acceptOf s.command s) s).advance := by
  simp [step, runStep, hr, runWords_idle s h h0, andThen]

theorem step_illegal (s : State) (hr : s.input.rst = false) (h : s.phase = .idle) (h0 : s.rnd ≠ 0) :
    step s = .refused .illegalUstep := by
  simp [step, runStep, hr, runWords_idle_illegal s h h0, andThen]

theorem step_busy (s : State) (hr : s.input.rst = false) (h : s.phase ≠ .idle) :
    step s = .next (microOf s.phase s.rnd.toFin (present s.command id s)).advance := by
  simp [step, runStep, hr, runWords_busy s h, andThen]

/-- All that a step that answers a next state can have done: a reset step, an idle step, or a micro-step of a busy
controller. -/
theorem step_cases (s t : State) (h : step s = .next t) :
    (s.input.rst = true ∧ t = (hostReset s).advance) ∨
    (s.input.rst = false ∧ s.phase = .idle ∧ s.rnd = 0 ∧ t = (present s.command (acceptOf s.command s) s).advance) ∨
    (s.input.rst = false ∧ s.phase ≠ .idle ∧ t = (microOf s.phase s.rnd.toFin (present s.command id s)).advance) := by
  cases hr : s.input.rst with
  | true => rw [step_reset s hr] at h; cases h; exact .inl ⟨rfl, rfl⟩
  | false =>
    by_cases hp : s.phase = .idle
    · by_cases h0 : s.rnd = 0
      · rw [step_idle s hr hp h0] at h; cases h; exact .inr (.inl ⟨rfl, hp, h0, rfl⟩)
      · rw [step_illegal s hr hp h0] at h; cases h
    · rw [step_busy s hr hp] at h; cases h; exact .inr (.inr ⟨rfl, hp, rfl⟩)

/-- A step stops only on an illegal micro-step word without a reset, and then with that refusal. -/
theorem step_stops (s : State) :
    (∃ t, step s = .next t) ∨
    (s.input.rst = false ∧ s.phase = .idle ∧ s.rnd ≠ 0 ∧ step s = .refused .illegalUstep) := by
  cases hr : s.input.rst with
  | true => exact .inl ⟨_, step_reset s hr⟩
  | false =>
    by_cases hp : s.phase = .idle
    · by_cases h0 : s.rnd = 0
      · exact .inl ⟨_, step_idle s hr hp h0⟩
      · exact .inr ⟨rfl, hp, h0, step_illegal s hr hp h0⟩
    · exact .inl ⟨_, step_busy s hr hp⟩

/-- No step stops with a fault (44_controller.md R160). -/
theorem step_never_faults (s : State) (e : Fault) : step s ≠ .fault e := nomatch e

/-! Runs. -/

@[simp] theorem run_zero (s : State) : Host.Core.run Sys2Proof.core 0 s = .next s := rfl

theorem run_succ (n : Nat) (s t : State) (h : step s = .next t) :
    Host.Core.run Sys2Proof.core (n + 1) s = Host.Core.run Sys2Proof.core n t := by
  have hc : Sys2Proof.core.step s = .next t := h
  simp only [Host.Core.run, hc]

theorem run_refused (n : Nat) (s : State) (e : Refusal) (h : step s = .refused e) :
    Host.Core.run Sys2Proof.core (n + 1) s = .refused e := by
  have hc : Sys2Proof.core.step s = .refused e := h
  simp only [Host.Core.run, hc]

/-- A run that answers a next state went through the next state of its first step. -/
theorem run_succ_next (n : Nat) (s t : State) (h : Host.Core.run Sys2Proof.core (n + 1) s = .next t) :
    ∃ u, step s = .next u ∧ Host.Core.run Sys2Proof.core n u = .next t := by
  rcases step_stops s with ⟨u, hu⟩ | ⟨_, _, _, hu⟩
  · exact ⟨u, hu, by rwa [run_succ n s u hu] at h⟩
  · rw [run_refused n s _ hu] at h; cases h

/-- Two runs one after the other are one run. -/
theorem run_add (m n : Nat) (s t : State) (h : Host.Core.run Sys2Proof.core m s = .next t) :
    Host.Core.run Sys2Proof.core (m + n) s = Host.Core.run Sys2Proof.core n t := by
  induction m generalizing s with
  | zero => cases h; rw [Nat.zero_add]
  | succ m ih =>
    obtain ⟨u, hu, hr⟩ := run_succ_next m s t h
    rw [Nat.add_right_comm, run_succ _ s u hu, ih u hr]

/-- Every instruction's meaning answers a next state, in every state. -/
theorem exec_next (i : Instr) (s : State) : ∃ t, exec i s = .next t := by
  cases i
  case idle => rw [exec_idle, fetchCommand, exec_command]; exact ⟨_, rfl⟩
  all_goals exact ⟨_, rfl⟩

end Sys2Proof.Machine
end

