-- ==== Sys2Proof/Laws/Micro.lean ====
section
/-! SUPPORT. What the shared micro-steps, and a command presented to a busy controller, do to each field. -/

namespace Sys2Proof.Machine

/-! Fields of `ksMicroStep`. -/

@[simp] theorem ksMicroStep_key (i : Fin 4) (s : State) : (ksMicroStep i s).key = s.key := by
  unfold ksMicroStep; split <;> simp
@[simp] theorem ksMicroStep_rk (i : Fin 4) (s : State) : (ksMicroStep i s).rk = s.rk.set i (ksrk s.key i) := by
  unfold ksMicroStep; split <;> simp
@[simp] theorem ksMicroStep_l (i : Fin 4) (s : State) : (ksMicroStep i s).l = s.l := by
  unfold ksMicroStep; split <;> simp
@[simp] theorem ksMicroStep_r (i : Fin 4) (s : State) : (ksMicroStep i s).r = s.r := by
  unfold ksMicroStep; split <;> simp
@[simp] theorem ksMicroStep_dout (i : Fin 4) (s : State) : (ksMicroStep i s).dout = s.dout := by
  unfold ksMicroStep; split <;> simp
@[simp] theorem ksMicroStep_phase (i : Fin 4) (s : State) : (ksMicroStep i s).phase = if i.val < 3 then s.phase else .idle := by
  unfold ksMicroStep; split <;> simp
@[simp] theorem ksMicroStep_rnd (i : Fin 4) (s : State) : (ksMicroStep i s).rnd = if i.val < 3 then BitVec.ofFin i + 1 else 0 := by
  unfold ksMicroStep; split <;> simp
@[simp] theorem ksMicroStep_kvalid (i : Fin 4) (s : State) : (ksMicroStep i s).kvalid = if i.val < 3 then s.kvalid else true := by
  unfold ksMicroStep; split <;> simp
@[simp] theorem ksMicroStep_done (i : Fin 4) (s : State) : (ksMicroStep i s).done = s.done := by
  unfold ksMicroStep; split <;> simp
@[simp] theorem ksMicroStep_fault (i : Fin 4) (s : State) : (ksMicroStep i s).fault = s.fault := by
  unfold ksMicroStep; split <;> simp
@[simp] theorem ksMicroStep_cause (i : Fin 4) (s : State) : (ksMicroStep i s).cause = s.cause := by
  unfold ksMicroStep; split <;> simp
@[simp] theorem ksMicroStep_doutHeld (i : Fin 4) (s : State) : (ksMicroStep i s).doutHeld = s.doutHeld := by
  unfold ksMicroStep; split <;> simp
@[simp] theorem ksMicroStep_resets (i : Fin 4) (s : State) : (ksMicroStep i s).resets = s.resets := by
  unfold ksMicroStep; split <;> simp
@[simp] theorem ksMicroStep_script (i : Fin 4) (s : State) : (ksMicroStep i s).script = s.script := by
  unfold ksMicroStep; split <;> simp

/-! Fields of `finishRound`. -/

@[simp] theorem finishRound_key (i : Fin 4) (lr : Half × Half) (s : State) : (finishRound i lr s).key = s.key := by
  unfold finishRound; split <;> simp
@[simp] theorem finishRound_rk (i : Fin 4) (lr : Half × Half) (s : State) : (finishRound i lr s).rk = s.rk := by
  unfold finishRound; split <;> simp
@[simp] theorem finishRound_l (i : Fin 4) (lr : Half × Half) (s : State) : (finishRound i lr s).l = lr.1 := by
  unfold finishRound; split <;> simp
@[simp] theorem finishRound_r (i : Fin 4) (lr : Half × Half) (s : State) : (finishRound i lr s).r = lr.2 := by
  unfold finishRound; split <;> simp
@[simp] theorem finishRound_dout (i : Fin 4) (lr : Half × Half) (s : State) : (finishRound i lr s).dout = if i.val < 3 then s.dout else joinBlock lr := by
  unfold finishRound; split <;> simp
@[simp] theorem finishRound_phase (i : Fin 4) (lr : Half × Half) (s : State) : (finishRound i lr s).phase = if i.val < 3 then s.phase else .idle := by
  unfold finishRound; split <;> simp
@[simp] theorem finishRound_rnd (i : Fin 4) (lr : Half × Half) (s : State) : (finishRound i lr s).rnd = if i.val < 3 then BitVec.ofFin i + 1 else 0 := by
  unfold finishRound; split <;> simp
@[simp] theorem finishRound_kvalid (i : Fin 4) (lr : Half × Half) (s : State) : (finishRound i lr s).kvalid = s.kvalid := by
  unfold finishRound; split <;> simp
@[simp] theorem finishRound_done (i : Fin 4) (lr : Half × Half) (s : State) : (finishRound i lr s).done = if i.val < 3 then s.done else true := by
  unfold finishRound; split <;> simp
@[simp] theorem finishRound_fault (i : Fin 4) (lr : Half × Half) (s : State) : (finishRound i lr s).fault = s.fault := by
  unfold finishRound; split <;> simp
@[simp] theorem finishRound_cause (i : Fin 4) (lr : Half × Half) (s : State) : (finishRound i lr s).cause = s.cause := by
  unfold finishRound; split <;> simp
@[simp] theorem finishRound_doutHeld (i : Fin 4) (lr : Half × Half) (s : State) : (finishRound i lr s).doutHeld = if i.val < 3 then s.doutHeld else true := by
  unfold finishRound; split <;> simp
@[simp] theorem finishRound_resets (i : Fin 4) (lr : Half × Half) (s : State) : (finishRound i lr s).resets = s.resets := by
  unfold finishRound; split <;> simp
@[simp] theorem finishRound_script (i : Fin 4) (lr : Half × Half) (s : State) : (finishRound i lr s).script = s.script := by
  unfold finishRound; split <;> simp

/-! Presenting a command without accepting it writes `FAULT` and `CAUSE` only. -/

@[simp] theorem present_id_key (c : Cmd) (s : State) : (present c id s).key = s.key := by
  unfold present; split <;> simp
@[simp] theorem present_id_rk (c : Cmd) (s : State) : (present c id s).rk = s.rk := by
  unfold present; split <;> simp
@[simp] theorem present_id_l (c : Cmd) (s : State) : (present c id s).l = s.l := by
  unfold present; split <;> simp
@[simp] theorem present_id_r (c : Cmd) (s : State) : (present c id s).r = s.r := by
  unfold present; split <;> simp
@[simp] theorem present_id_dout (c : Cmd) (s : State) : (present c id s).dout = s.dout := by
  unfold present; split <;> simp
@[simp] theorem present_id_phase (c : Cmd) (s : State) : (present c id s).phase = s.phase := by
  unfold present; split <;> simp
@[simp] theorem present_id_rnd (c : Cmd) (s : State) : (present c id s).rnd = s.rnd := by
  unfold present; split <;> simp
@[simp] theorem present_id_kvalid (c : Cmd) (s : State) : (present c id s).kvalid = s.kvalid := by
  unfold present; split <;> simp
@[simp] theorem present_id_done (c : Cmd) (s : State) : (present c id s).done = s.done := by
  unfold present; split <;> simp
@[simp] theorem present_id_doutHeld (c : Cmd) (s : State) : (present c id s).doutHeld = s.doutHeld := by
  unfold present; split <;> simp
@[simp] theorem present_id_resets (c : Cmd) (s : State) : (present c id s).resets = s.resets := by
  unfold present; split <;> simp
@[simp] theorem present_id_script (c : Cmd) (s : State) : (present c id s).script = s.script := by
  unfold present; split <;> simp

theorem present_id_fault (c : Cmd) (s : State) :
    (present c id s).fault = match raised c s with | some _ => true | none => s.fault := by
  unfold present
  cases raised c s with
  | some v => rfl
  | none => cases accepts c s <;> rfl

theorem present_id_cause (c : Cmd) (s : State) :
    (present c id s).cause = match raised c s with | some v => v.code | none => s.cause := by
  unfold present
  cases raised c s with
  | some v => rfl
  | none => cases accepts c s <;> rfl

/-- Every micro-step leaves `KEY`, `FAULT`, `CAUSE`, the reset count and the script. -/
theorem microOf_frame (p : Phase) (i : Fin 4) (s : State) :
    (microOf p i s).key = s.key ∧ (microOf p i s).fault = s.fault ∧ (microOf p i s).cause = s.cause ∧
      (microOf p i s).resets = s.resets ∧ (microOf p i s).script = s.script := by
  cases p <;> simp [microOf, encMicroStep, decMicroStep]

/-- Every working micro-step moves the sequencing state in the same way (10_state.md R24). -/
theorem microOf_sequencing (p : Phase) (i : Fin 4) (s : State) (hp : p ≠ .idle) :
    (microOf p i s).phase = (if i.val < 3 then s.phase else .idle) ∧
      (microOf p i s).rnd = (if i.val < 3 then BitVec.ofFin i + 1 else 0) := by
  cases p <;> simp_all [microOf, encMicroStep, decMicroStep]

/-- A fault raised in the same step does not reach the micro-step (60_exceptions.md R194). -/
theorem microOf_raiseFault (p : Phase) (i : Fin 4) (v : Violation) (s : State) :
    microOf p i (raiseFault v s) = raiseFault v (microOf p i s) := by
  cases p
  · rfl
  all_goals
    simp only [microOf, ksMicroStep, encMicroStep, decMicroStep, finishRound]
    split <;> rfl

end Sys2Proof.Machine
end

