-- ==== Sys2Proof/Laws/PerInstr.lean ====
section
/-! SUPPORT. One lemma per constructor of `Instr`, for statements about all instructions as syntax. -/

namespace Sys2Proof.Laws.EncodeDecode

/-- The word of an instruction is a well-formed word of its format and reads back as the instruction (30_encoding.md R70,
R73). -/
def Statement (i : Instr) : Prop :=
  (encode i).fmt = i.fmt ∧ (encode i).wf = true ∧ decode (encode i) = .ok i

theorem nop : Statement .nop := ⟨rfl, by decide, rfl⟩
theorem loadkey : Statement .loadkey := ⟨rfl, by decide, rfl⟩
theorem encrypt : Statement .encrypt := ⟨rfl, by decide, rfl⟩
theorem decrypt : Statement .decrypt := ⟨rfl, by decide, rfl⟩
theorem idle : Statement .idle := ⟨rfl, by decide, rfl⟩
theorem ks0 : Statement .ks0 := ⟨rfl, by decide, rfl⟩
theorem ks1 : Statement .ks1 := ⟨rfl, by decide, rfl⟩
theorem ks2 : Statement .ks2 := ⟨rfl, by decide, rfl⟩
theorem ks3 : Statement .ks3 := ⟨rfl, by decide, rfl⟩
theorem enc0 : Statement .enc0 := ⟨rfl, by decide, rfl⟩
theorem enc1 : Statement .enc1 := ⟨rfl, by decide, rfl⟩
theorem enc2 : Statement .enc2 := ⟨rfl, by decide, rfl⟩
theorem enc3 : Statement .enc3 := ⟨rfl, by decide, rfl⟩
theorem dec0 : Statement .dec0 := ⟨rfl, by decide, rfl⟩
theorem dec1 : Statement .dec1 := ⟨rfl, by decide, rfl⟩
theorem dec2 : Statement .dec2 := ⟨rfl, by decide, rfl⟩
theorem dec3 : Statement .dec3 := ⟨rfl, by decide, rfl⟩

end Sys2Proof.Laws.EncodeDecode
end

