-- ==== Sys2Proof/Laws/Run.lean ====
section
/-! SUPPORT. What one step does to the script, to `FAULT` and `CAUSE`, and to the data registers in each phase, in the form
a run of several steps is followed with. -/

namespace Sys2Proof.Machine

/-- A run of `n + 1` steps from its first step and the rest. -/
theorem runFor_cons (n : Nat) (s t u : State) (h : step s = .next t) (h2 : runFor n t = .next u) :
    runFor (n + 1) s = .next u := by
  rw [runFor, run_succ n s t h]; exact h2

/-- Every step moves past one line of the script. -/
theorem step_script (s u : State) (h : step s = .next u) : u.script = s.script.tail := by
  rcases step_cases s u h with ⟨_, rfl⟩ | ⟨_, _, _, rfl⟩ | ⟨_, _, rfl⟩
  · simp [hostReset]
  · rcases present_cases s.command (acceptOf s.command s) s with ⟨v, _, h2⟩ | ⟨_, _, h3⟩ | ⟨_, _, h3⟩
    · rw [h2]; simp
    · rw [h3]; cases s.command <;> simp [acceptOf]
    · rw [h3]; simp
  · simp [microOf_frame]

/-- After a step the input lines are those that came one later. -/
theorem inputAt_step (s u : State) (k : Nat) (h : step s = .next u) : u.inputAt k = s.inputAt (k + 1) := by
  rw [← inputAt_advance]
  exact inputAt_congr _ _ (by simp [step_script s u h]) k

/-- The first of `n + 1` lines without a reset, and the rest. -/
theorem noReset_cons (s u : State) (n : Nat) (hn : s.NoReset (n + 1)) (h : step s = .next u) :
    s.input.rst = false ∧ u.NoReset n := by
  refine ⟨hn 0 (by omega), fun k hk => ?_⟩
  rw [inputAt_step s u k h]; exact hn (k + 1) (by omega)

/-- `FAULT` and `CAUSE` after a step without a reset: those of the fault raised, or as before. -/
theorem step_faults (s t : State) (hr : s.input.rst = false) (h : step s = .next t) :
    t.fault = (match raised s.command s with | some _ => true | none => s.fault) ∧
      t.cause = (match raised s.command s with | some v => v.code | none => s.cause) := by
  rcases step_cases s t h with ⟨h1, _⟩ | ⟨_, _, _, rfl⟩ | ⟨_, _, rfl⟩
  · simp [hr] at h1
  · rcases present_cases s.command (acceptOf s.command s) s with ⟨v, h1, h2⟩ | ⟨h1, _, h3⟩ | ⟨h1, _, h3⟩
    · rw [h2, h1]; simp
    · rw [h3, h1]; cases s.command <;> simp [acceptOf]
    · rw [h3, h1]; simp
  · simp only [advance_fault, advance_cause, microOf_frame, present_id_fault, present_id_cause]
    cases raised s.command s <;> simp

/-- A step in which the command is accepted performs its acceptance and nothing else. -/
theorem step_accepts (s : State) (hr : s.input.rst = false) (h : accepts s.command s = true) (h0 : s.rnd = 0) :
    step s = .next (acceptOf s.command s s).advance := by
  rw [step_idle s hr ((accepts_iff _ _).1 h).2.1 h0]
  simp [present, raised_of_accepts _ _ h, h]

/-- An idle step whose command is ignored or is NOP only moves past its line. -/
theorem step_quiet (s : State) (hr : s.input.rst = false) (hp : s.phase = .idle) (h0 : s.rnd = 0)
    (h : s.fault = true ∨ s.command = .nop) : step s = .next s.advance := by
  rw [step_idle s hr hp h0]
  rcases h with h | h
  · simp [present, raised, accepts, h]
  · simp [present, raised, accepts, h]

/-- The data and sequencing registers after a KS micro-step (40_key_schedule.md R96). -/
theorem step_ks (s : State) (hr : s.input.rst = false) (hp : s.phase = .ks) :
    ∃ u, step s = .next u ∧
      u.key = s.key ∧ u.rk = s.rk.set s.rnd.toFin (ksrk s.key s.rnd.toFin) ∧ u.l = s.l ∧ u.r = s.r ∧ u.dout = s.dout ∧
      u.done = s.done ∧ u.doutHeld = s.doutHeld ∧
      u.phase = (if s.rnd.toNat < 3 then .ks else .idle) ∧ u.rnd = (if s.rnd.toNat < 3 then s.rnd + 1 else 0) ∧
      u.kvalid = (if s.rnd.toNat < 3 then s.kvalid else true) := by
  refine ⟨_, step_busy s hr (by simp [hp]), ?_⟩
  rw [hp]
  simp [microOf, hp]

/-- The data and sequencing registers after an ENC micro-step (44_controller.md R165, R167). -/
theorem step_enc (s : State) (hr : s.input.rst = false) (hp : s.phase = .enc) :
    ∃ u, step s = .next u ∧
      u.key = s.key ∧ u.rk = s.rk ∧ u.kvalid = s.kvalid ∧
      (u.l, u.r) = encRound Config.tables (s.l, s.r) (s.rk.get s.rnd.toFin) ∧
      u.dout = (if s.rnd.toNat < 3 then s.dout else u.l ++ u.r) ∧
      u.done = (if s.rnd.toNat < 3 then s.done else true) ∧
      u.doutHeld = (if s.rnd.toNat < 3 then s.doutHeld else true) ∧
      u.phase = (if s.rnd.toNat < 3 then .enc else .idle) ∧ u.rnd = (if s.rnd.toNat < 3 then s.rnd + 1 else 0) := by
  refine ⟨_, step_busy s hr (by simp [hp]), ?_⟩
  rw [hp]
  simp only [microOf, encMicroStep, present_id_l, present_id_r, present_id_rk]
  generalize encRound Config.tables (s.l, s.r) (s.rk.get s.rnd.toFin) = lr
  simp [hp]
  rfl

/-- The data and sequencing registers after a DEC micro-step (44_controller.md R166, R167). -/
theorem step_dec (s : State) (hr : s.input.rst = false) (hp : s.phase = .dec) :
    ∃ u, step s = .next u ∧
      u.key = s.key ∧ u.rk = s.rk ∧ u.kvalid = s.kvalid ∧
      (u.l, u.r) = decRound Config.tables (s.l, s.r) (s.rk.get (3 - s.rnd.toFin)) ∧
      u.dout = (if s.rnd.toNat < 3 then s.dout else u.l ++ u.r) ∧
      u.done = (if s.rnd.toNat < 3 then s.done else true) ∧
      u.doutHeld = (if s.rnd.toNat < 3 then s.doutHeld else true) ∧
      u.phase = (if s.rnd.toNat < 3 then .dec else .idle) ∧ u.rnd = (if s.rnd.toNat < 3 then s.rnd + 1 else 0) := by
  refine ⟨_, step_busy s hr (by simp [hp]), ?_⟩
  rw [hp]
  simp only [microOf, decMicroStep, present_id_l, present_id_r, present_id_rk]
  generalize decRound Config.tables (s.l, s.r) (s.rk.get (3 - s.rnd.toFin)) = lr
  simp [hp]
  rfl

end Sys2Proof.Machine
end

