-- ==== Sys2Proof/Tests/Slice0.lean ====
section
/-! SUPPORT. Own tests. The expected values come from the tables of spec/30_encoding.md and from
spec/95_test_vectors.md, whose section is named at each test. -/

namespace Sys2Proof.Tests

open Sys2Proof.Machine

/-! ## Words, written out from 30_encoding.md R70 and R73 -/

theorem test_decode_commands :
    decode ⟨.cmd, 0b0000#4⟩ = .ok .nop ∧ decode ⟨.cmd, 0b0001#4⟩ = .ok .loadkey ∧
    decode ⟨.cmd, 0b0010#4⟩ = .ok .encrypt ∧ decode ⟨.cmd, 0b0011#4⟩ = .ok .decrypt := by decide

theorem test_decode_key_micro_steps :
    decode ⟨.ustep, 0b0000#4⟩ = .ok .idle ∧
    decode ⟨.ustep, 0b0100#4⟩ = .ok .ks0 ∧ decode ⟨.ustep, 0b0101#4⟩ = .ok .ks1 ∧
    decode ⟨.ustep, 0b0110#4⟩ = .ok .ks2 ∧ decode ⟨.ustep, 0b0111#4⟩ = .ok .ks3 := by decide

theorem test_decode_round_micro_steps :
    decode ⟨.ustep, 0b1000#4⟩ = .ok .enc0 ∧ decode ⟨.ustep, 0b1001#4⟩ = .ok .enc1 ∧
    decode ⟨.ustep, 0b1010#4⟩ = .ok .enc2 ∧ decode ⟨.ustep, 0b1011#4⟩ = .ok .enc3 ∧
    decode ⟨.ustep, 0b1100#4⟩ = .ok .dec0 ∧ decode ⟨.ustep, 0b1101#4⟩ = .ok .dec1 ∧
    decode ⟨.ustep, 0b1110#4⟩ = .ok .dec2 ∧ decode ⟨.ustep, 0b1111#4⟩ = .ok .dec3 := by decide

/-- R74: the three words with no meaning, and a CMD word that is too wide. -/
theorem test_decode_rejects :
    decode ⟨.ustep, 0b0001#4⟩ = .error .illegalUstep ∧ decode ⟨.ustep, 0b0010#4⟩ = .error .illegalUstep ∧
    decode ⟨.ustep, 0b0011#4⟩ = .error .illegalUstep ∧ decode ⟨.cmd, 0b0100#4⟩ = .error .commandTooWide := by decide

/-- The opcode table's words as the host numbers them, with the table's widths and in whole bytes. -/
theorem test_table_words :
    decodeTableWord 2 0 = some .nop ∧ decodeTableWord 2 3 = some .decrypt ∧ decodeTableWord 4 0 = some .idle ∧
    decodeTableWord 4 15 = some .dec3 ∧ decodeTableWord 4 1 = none ∧ decodeTableWord 8 0 = some .nop ∧
    decodeTableWord 8 1 = some .loadkey ∧ decodeTableWord 8 4 = some .ks0 ∧ decodeTableWord 8 11 = some .enc3 ∧
    decodeTableWord 8 16 = none := by decide

/-- Does the machine complete a step? -/
def completes (s : State) : Bool :=
  match step s with
  | .next _ => true
  | .fault _ => false
  | .refused _ => false

/-- Every row of the table runs as the first instruction after reset. -/
theorem test_rows_run_after_reset :
    (∀ w < 4, completes (State.reset.withFetchWord 2 w) = true) ∧
    (∀ w < 16, completes (State.reset.withFetchWord 8 w) = true) ∧
    completes (State.reset.withFetchWord 4 0) = true ∧ completes (State.reset.withFetchWord 4 2) = false := by decide

/-- 95 section 5, P1: the encodings of script lines. -/
theorem test_line_words :
    Line.reset.word = 0x4000000000000000000000000#99 ∧
    (Line.loadkey 0xAB12CD34EF567890#64).word = 0x1AB12CD34EF56789000000000#99 ∧
    Line.nop.word = 0x0000000000000000000000000#99 ∧
    (Line.encrypt 0xF7B3E9D1#32).word = 0x20000000000000000F7B3E9D1#99 ∧
    (Line.decrypt 0xA4188717#32).word = 0x30000000000000000A4188717#99 := by decide

theorem test_line_of_words :
    Line.ofWord 0x1AB12CD34EF56789000000000#99 = .loadkey 0xAB12CD34EF567890#64 ∧
    Line.ofWord 0x20000000000000000F7B3E9D1#99 = .encrypt 0xF7B3E9D1#32 ∧
    Line.ofWord 0x7FFFFFFFFFFFFFFFFFFFFFFFF#99 = .reset := by decide

/-! ## Well-formedness: one ill-formed term for each check -/

/-- T0 of 95 section 1: the identity tables. Not the hardware's. -/
def t0 : Tables where
  sbox := #v[0, 1, 2, 3, 4, 5, 6, 7, 8, 9, 10, 11, 12, 13, 14, 15]
  pbox1 := #v[1, 2, 3, 4, 5, 6, 7, 8, 9, 10, 11, 12, 13, 14, 15, 16]

/-- T1 of 95 section 1: affine tables. Not the hardware's. -/
def t1 : Tables where
  sbox := #v[0x3, 0xA, 0x1, 0x8, 0xF, 0x6, 0xD, 0x4, 0xB, 0x2, 0x9, 0x0, 0x7, 0xE, 0x5, 0xC]
  pbox1 := #v[3, 8, 13, 2, 7, 12, 1, 6, 11, 16, 5, 10, 15, 4, 9, 14]

/-- An S-box with entry 3 twice and no 0. -/
def badSbox : Tables := { t1 with sbox := t1.sbox.set 11 0x3#4 }

/-- A P-box with an entry 0, out of range. -/
def badPboxLow : Tables := { t1 with pbox1 := t1.pbox1.set 6 0#5 }

/-- A P-box with an entry 17, out of range. -/
def badPboxHigh : Tables := { t1 with pbox1 := t1.pbox1.set 9 17#5 }

theorem test_wf_words :
    InstrWord.wf ⟨.cmd, 0b0011#4⟩ = true ∧ InstrWord.wf ⟨.cmd, 0b0100#4⟩ = false ∧
    InstrWord.wf ⟨.ustep, 0b0001#4⟩ = false ∧ InstrWord.wf ⟨.ustep, 0b0010#4⟩ = false ∧
    InstrWord.wf ⟨.ustep, 0b0011#4⟩ = false ∧ InstrWord.wf ⟨.ustep, 0b0000#4⟩ = true := by decide

theorem test_wf_tables : t0.Wf ∧ t1.Wf := by decide

theorem test_wf_tables_refuses :
    ¬badSbox.SboxWf ∧ badSbox.PboxWf ∧ ¬badPboxLow.PboxWf ∧ badPboxLow.SboxWf ∧ ¬badPboxHigh.PboxWf := by decide

theorem test_wf_gate : admitTables t1 = .ok t1 ∧ admitTables badPboxLow = .error .illFormedTables := by decide

/-- R76: an ignored port that is not zero. -/
theorem test_wf_inputs :
    Input.canonical ⟨true, 0b01#2, 0, 0⟩ = false ∧ Input.canonical ⟨true, 0b00#2, 1, 0⟩ = false ∧
    Input.canonical ⟨false, 0b00#2, 0, 1⟩ = false ∧ Input.canonical ⟨false, 0b01#2, 5, 1⟩ = false ∧
    Input.canonical ⟨false, 0b10#2, 1, 5⟩ = false ∧ Input.canonical ⟨false, 0b11#2, 0, 5⟩ = true := by decide

/-! ## Functions (95 section 3) -/

/-- 95 section 3.1. -/
theorem test_rotl32 :
    rotl32 0xAB12CD34#32 5 = 0x6259A695#32 ∧ rotl32 0xEF567890#32 9 = 0xACF121DE#32 ∧
    rotl32 0x80000000#32 1 = 0x00000001#32 ∧ rotl32 0x00000001#32 31 = 0x80000000#32 ∧
    rotl32 0x12345678#32 16 = 0x56781234#32 := by decide

/-- 95 sections 2.3 and 3.2: the golden key and two others. -/
theorem test_key_schedule :
    keySchedule 0xAB12CD34EF567890#64 = ⟨0x69A4#16, 0xA697#16, 0x4874#16, 0x21DA#16⟩ ∧
    keySchedule 0x0123456789ABCDEF#64 = ⟨0x2B39#16, 0xACE2#16, 0xF7C7#16, 0xDF17#16⟩ ∧
    keySchedule 0x8000000000000001#64 = ⟨0x0005#16, 0x0012#16, 0x0083#16, 0x0204#16⟩ := by decide

/-- 95 section 3.3. -/
theorem test_sub :
    sub t1 0x1234#16 = 0xA18F#16 ∧ sub t1 0x8000#16 = 0xB333#16 ∧ sub t1 0x00F0#16 = 0x33C3#16 ∧
    sub t0 0xABCD#16 = 0xABCD#16 := by decide

/-- 95 section 3.4: `0x0001` and `0xA18F` tell scatter from gather. -/
theorem test_perm :
    perm t1 0x0001#16 = 0x0004#16 ∧ perm t1 0x8000#16 = 0x2000#16 ∧ perm t1 0xA18F#16 = 0x34AE#16 ∧
    perm t1 0x00F0#16 = 0x0861#16 := by decide

/-- 95 section 1, row `PINV`. -/
theorem test_pinv : pinv t1 0 = 6 ∧ pinv t1 1 = 3 ∧ pinv t1 3 = 13 ∧ pinv t1 15 = 9 := by decide

/-- 95 section 3.5. -/
theorem test_mix : mix 0x34AE#16 0xFFFF#16 = 0x34AD#16 ∧ mix 0x0001#16 0x0001#16 = 0x0002#16 := by decide

/-- 95 section 3.6. -/
theorem test_f :
    fFunction t1 0x8000#16 0x8000#16 = 0x6CCC#16 ∧ fFunction t1 0xE9D1#16 0x69A4#16 = 0x3347#16 ∧
    fFunction t0 0xE9D1#16 0x69A4#16 = 0x5375#16 := by decide

/-- The golden round keys (95 section 2.3). -/
def goldenKeys : RoundKeys := ⟨0x69A4#16, 0xA697#16, 0x4874#16, 0x21DA#16⟩

/-- 95 section 3.7: the golden block under T1 and T0. -/
theorem test_encrypt :
    encryptBlock t1 goldenKeys 0xF7B3E9D1#32 = 0xA4188717#32 ∧
    encryptBlock t0 goldenKeys 0xF7B3E9D1#32 = 0x4FC6D32C#32 := by decide

theorem test_decrypt :
    decryptBlock t1 goldenKeys 0xA4188717#32 = 0xF7B3E9D1#32 ∧
    decryptBlock t1 goldenKeys 0xF7B3E9D1#32 = 0x271DB7B2#32 := by decide

/-! ## Single steps (95 sections 4 and 5) -/

/-- A small state with the golden key loaded, in a given phase and round, with a script. -/
def probe (phase : Phase) (rnd : BitVec 2) (kvalid : Bool) (script : List Input) : State where
  key := 0xAB12CD34EF567890#64
  rk := goldenKeys
  l := 0xF7B3#16
  r := 0xE9D1#16
  dout := 0x00070008#32
  phase := phase
  rnd := rnd
  kvalid := kvalid
  done := false
  fault := false
  cause := 0
  doutHeld := true
  resets := 0
  script := script

/-- The same with `DONE = 1`. -/
def probeDone (script : List Input) : State := { probe .idle 0 true script with done := true }

/-- The same with a fault recorded. -/
def probeFault (phase : Phase) (rnd : BitVec 2) (cause : BitVec 2) (script : List Input) : State :=
  { probe phase rnd true script with fault := true, cause := cause }

/-- 95 section 4.1, row 1: the state after reset under NOP. -/
theorem test_nop_in_reset_state : step State.reset = .next State.reset := rfl

/-- 95 section 4.1: LOADKEY in an idle CORE with `KVALID = 1`, `DONE = 1`. -/
theorem test_loadkey_accepted :
    step (probeDone [(Line.loadkey 0x0123456789ABCDEF#64).input]) =
      .next { probe .ks 0 false [] with key := 0x0123456789ABCDEF#64 } := rfl

/-- 95 section 4.1, row 2: LOADKEY in the reset state. -/
theorem test_loadkey_after_reset :
    step (State.afterReset 0 [(Line.loadkey 1#64).input]) =
      .next { State.afterReset 0 [] with key := 1#64, phase := .ks } := rfl

/-- 95 section 4.1: ENCRYPT in an idle CORE with `KVALID = 1`, `DONE = 1`. -/
theorem test_encrypt_accepted :
    step (probeDone [(Line.encrypt 0x12345678#32).input]) =
      .next { probe .enc 0 true [] with l := 0x1234#16, r := 0x5678#16 } := rfl

/-- 95 section 4.1, row 3: ENCRYPT in the reset state raises NOKEY and changes nothing else. -/
theorem test_encrypt_nokey :
    step (State.afterReset 0 [(Line.encrypt 1#32).input]) =
      .next { State.afterReset 0 [] with fault := true, cause := 0b01#2 } := rfl

/-- 95 section 4.1: DECRYPT in an idle CORE with `KVALID = 1`, `DONE = 1`. -/
theorem test_decrypt_accepted :
    step (probeDone [(Line.decrypt 0x12345678#32).input]) =
      .next { probe .dec 0 true [] with l := 0x1234#16, r := 0x5678#16 } := rfl

/-- 95 section 4.1, row 4. -/
theorem test_decrypt_nokey :
    step (State.afterReset 0 [(Line.decrypt 1#32).input]) =
      .next { State.afterReset 0 [] with fault := true, cause := 0b01#2 } := rfl

/-- 95 section 4.1: a faulted, idle CORE ignores LOADKEY. -/
theorem test_idle_faulted_ignores :
    step (probeFault .idle 0 0b01#2 [(Line.loadkey 1#64).input]) = .next (probeFault .idle 0 0b01#2 []) := rfl

/-- 95 section 5, P4 steps 11 and 12: KS0 over old round keys. -/
theorem test_ks0 :
    step { probe .ks 0 false [] with key := 0x8000000000000001#64, rk := ⟨1#16, 2#16, 3#16, 4#16⟩ } =
      .next { probe .ks 1 false [] with key := 0x8000000000000001#64, rk := ⟨5#16, 2#16, 3#16, 4#16⟩ } := rfl

/-- 95 section 5, P6 step 3: KS1 is performed and ENCRYPT raises BUSY, not NOKEY. -/
theorem test_ks1_busy :
    step { probe .ks 1 false [(Line.encrypt 1#32).input] with rk := ⟨0x69A4#16, 0#16, 0#16, 0#16⟩ } =
      .next { probe .ks 2 false [] with
        rk := ⟨0x69A4#16, 0xA697#16, 0#16, 0#16⟩, fault := true, cause := 0b10#2 } := rfl

/-- 95 section 5, P1 step 4. -/
theorem test_ks2 :
    step { probe .ks 2 false [] with rk := ⟨0x69A4#16, 0xA697#16, 0#16, 0#16⟩ } =
      .next { probe .ks 3 false [] with rk := ⟨0x69A4#16, 0xA697#16, 0x4874#16, 0#16⟩ } := rfl

/-- 95 section 5, P1 step 5. -/
theorem test_ks3 :
    step { probe .ks 3 false [] with rk := ⟨0x69A4#16, 0xA697#16, 0x4874#16, 0#16⟩ } =
      .next (probe .idle 0 true []) := rfl

/-- 95 section 5, P1 step 7, under T1. -/
theorem test_enc0 :
    encMicroStep t1 0 (probe .enc 0 true []) = { probe .enc 1 true [] with l := 0xE9D1#16, r := 0xC4F4#16 } := by decide

/-- 95 section 5, P1 step 8. -/
theorem test_enc1 :
    encMicroStep t1 1 { probe .enc 1 true [] with l := 0xE9D1#16, r := 0xC4F4#16 } =
      { probe .enc 2 true [] with l := 0xC4F4#16, r := 0x9787#16 } := by decide

/-- 95 section 5, P1 step 9. -/
theorem test_enc2 :
    encMicroStep t1 2 { probe .enc 2 true [] with l := 0xC4F4#16, r := 0x9787#16 } =
      { probe .enc 3 true [] with l := 0x9787#16, r := 0xA418#16 } := by decide

/-- 95 section 5, P1 step 10: the last round and completion. -/
theorem test_enc3 :
    encMicroStep t1 3 { probe .enc 3 true [] with l := 0x9787#16, r := 0xA418#16 } =
      { probeDone [] with l := 0xA418#16, r := 0x8717#16, dout := 0xA4188717#32 } := by decide

/-- 95 section 4.1: LOADKEY at ENC3 raises BUSY, the encryption completes and `KEY` stays. -/
theorem test_enc3_busy :
    ∃ t, step (probe .enc 3 true [(Line.loadkey 1#64).input]) = .next t ∧ t.done = true ∧ t.phase = .idle ∧
      t.fault = true ∧ t.cause = 0b10#2 ∧ t.key = 0xAB12CD34EF567890#64 := ⟨_, rfl, rfl, rfl, rfl, rfl, rfl⟩

/-- 95 section 5, P1 step 12. -/
theorem test_dec0 :
    decMicroStep t1 0 { probe .dec 0 true [] with l := 0xA418#16, r := 0x8717#16 } =
      { probe .dec 1 true [] with l := 0x9787#16, r := 0xA418#16 } := by decide

/-- 95 section 5, P1 step 13. -/
theorem test_dec1 :
    decMicroStep t1 1 { probe .dec 1 true [] with l := 0x9787#16, r := 0xA418#16 } =
      { probe .dec 2 true [] with l := 0xC4F4#16, r := 0x9787#16 } := by decide

/-- 95 section 5, P4 step 24, under T0. -/
theorem test_dec2 :
    decMicroStep t0 2 { probe .dec 2 true [] with
        rk := ⟨5#16, 0x12#16, 0x83#16, 0x204#16⟩, l := 0x0281#16, r := 0x0203#16 } =
      { probe .dec 3 true [] with
        rk := ⟨5#16, 0x12#16, 0x83#16, 0x204#16⟩, l := 0x0090#16, r := 0x0281#16 } := by decide

/-- 95 section 5, P1 step 15: the last round and completion. -/
theorem test_dec3 :
    decMicroStep t1 3 { probe .dec 3 true [] with l := 0xE9D1#16, r := 0xC4F4#16 } =
      { probeDone [] with l := 0xF7B3#16, r := 0xE9D1#16, dout := 0xF7B3E9D1#32 } := by decide

/-- 95 section 4.1: a busy CORE with a fault goes on, and `CAUSE` stays. -/
theorem test_busy_faulted_goes_on :
    ∃ t, step (probeFault .enc 1 0b10#2 [(Line.encrypt 1#32).input]) = .next t ∧ t.rnd = 2 ∧ t.cause = 0b10#2 :=
  ⟨_, rfl, rfl, rfl⟩

/-- 95 section 4.1, last row: a reset in the middle of an operation. -/
theorem test_reset_abandons :
    step (probe .enc 2 true [Line.reset.input]) = .next (State.afterReset 1 []) := rfl

/-- 10_state.md R31: the bits of STATUS. -/
theorem test_status :
    (probeFault .idle 0 0b10#2 []).status = 0b101100#6 ∧ (probe .ks 1 false []).status = 0b000001#6 := by decide

/-- 30_encoding.md R77: `NEW` in an idle CORE is a command and four NOPs, and `WAIT` before KS2 two NOPs. -/
theorem test_expand :
    expand (probe .idle 0 false []) (.new 7#64) = [.loadkey 7#64, .nop, .nop, .nop, .nop] ∧
    expand (probe .ks 2 false []) .wait = [.nop, .nop] ∧
    expand (probe .idle 0 false []) (.enc 7#32) = [.encrypt 7#32] := by decide

/-! ## Witnesses: for each obligation with hypotheses, states and operands that meet them -/

/-- A state that meets the invariant, with the key schedule of key 0 (95 section 3.2). -/
def keyedZero (script : List Input) : State :=
  { probe .idle 0 true script with key := 0#64, rk := ⟨1#16, 2#16, 3#16, 4#16⟩ }

/-- A line of the script. -/
def line (l : Line) : List Input := [l.input]

theorem test_witness_RotationIsCircular : 0 < 1 ∧ 1 < 32 ∧ 0 < 31 ∧ 31 < 32 := by decide

theorem test_witness_KeyScheduleExtractsKeyBits :
    ∀ b : Fin 64, ¬(9 ≤ b.val ∧ b.val ≤ 22) → ¬(45 ≤ b.val ∧ b.val ≤ 58) →
      (0x0000000000000000#64).getLsbD b.val = (0x07FFE000007FFE00#64).getLsbD b.val := by decide

theorem test_witness_SubstitutionActsOnEachNibble : t1.SboxWf := by decide

theorem test_witness_PermutationScattersBits :
    t1.PboxWf ∧ (List.finRange 16).reverse.Perm (List.finRange 16) := ⟨by decide, List.reverse_perm _⟩

theorem test_witness_PermutationGathersThroughPinv :
    t1.PboxWf ∧ pbox0 t1 15 = 13 ∧ perm t1 0x8000#16 = 0x2000#16 := by decide

theorem test_witness_RoundFunctionStages : t1.Wf := by decide

theorem test_witness_FeistelRoundForms : fFunction t1 0x0000#16 0x3334#16 = 0x0000#16 := by decide

theorem test_witness_ConfigurationIsAnyWellFormedPair : t1.Wf ∧ ¬badSbox.Wf := by decide

theorem test_witness_InstructionWordsRoundTrip : decode ⟨.ustep, 0b1011#4⟩ = .ok .enc3 := by decide

theorem test_witness_ScriptWordsRoundTrip :
    (Input.ofWord 0x20000000000000000F7B3E9D1#99).canonical = true ∧
    (Input.ofWord 0x4000000000000000000000000#99).canonical = true := by decide

theorem test_witness_NopWritesNothing_idle :
    ∃ s : State, s.phase = .idle ∧ s.rnd = 0 ∧ s.NoReset 3 ∧ ∀ k < 3, decodeCmd (s.inputAt k).cmd = .nop :=
  ⟨probe .idle 0 true (line .nop), by decide⟩

theorem test_witness_NopWritesNothing_busy :
    ∃ s t : State, s.input.rst = false ∧ s.command = .nop ∧ s.phase ≠ .idle ∧ step s = .next t :=
  ⟨probe .enc 3 true (line .nop), _, by decide, by decide, by decide, rfl⟩

theorem test_witness_LoadkeyIsTakenOrFaults :
    (∃ s : State, s.phase = .idle ∧ s.fault = false) ∧ (∃ s : State, s.phase ≠ .idle ∧ s.fault = false) ∧
    ∃ s : State, s.fault = true :=
  ⟨⟨probeDone [], by decide⟩, ⟨probe .ks 3 false [], by decide⟩, ⟨probeFault .idle 0 0b01#2 [], by decide⟩⟩

theorem test_witness_EncryptIsTakenOrFaults :
    (∃ s : State, s.phase = .idle ∧ s.fault = false ∧ s.kvalid = true) ∧
    (∃ s : State, s.phase = .idle ∧ s.fault = false ∧ s.kvalid = false) ∧
    (∃ s : State, s.phase ≠ .idle ∧ s.fault = false) ∧ ∃ s : State, s.fault = true :=
  ⟨⟨probeDone [], by decide⟩, ⟨probe .idle 0 false [], by decide⟩, ⟨probe .enc 3 true [], by decide⟩,
    ⟨probeFault .enc 1 0b10#2 [], by decide⟩⟩

theorem test_witness_DecryptIsTakenOrFaults :
    (∃ s : State, s.phase = .idle ∧ s.fault = false ∧ s.kvalid = true) ∧
    (∃ s : State, s.phase = .idle ∧ s.fault = false ∧ s.kvalid = false) ∧
    (∃ s : State, s.phase ≠ .idle ∧ s.fault = false) ∧ ∃ s : State, s.fault = true :=
  ⟨⟨probeDone [], by decide⟩, ⟨probe .idle 0 false [], by decide⟩, ⟨probe .dec 0 true [], by decide⟩,
    ⟨probeFault .dec 3 0b10#2 [], by decide⟩⟩

theorem test_witness_IdleWaitsAndAccepts :
    (∃ s : State, s.phase = .idle ∧ s.input.cmd = 0b00#2) ∧
    (∃ s : State, s.phase = .idle ∧ s.fault = true) ∧
    (∃ s : State, s.phase = .idle ∧ s.fault = false ∧ s.input.cmd = 0b01#2) ∧
    (∃ s : State, s.phase = .idle ∧ s.fault = false ∧ s.kvalid = true ∧ s.input.cmd = 0b10#2) ∧
    (∃ s : State, s.phase = .idle ∧ s.fault = false ∧ s.kvalid = true ∧ s.input.cmd = 0b11#2) ∧
    ∃ s : State, s.phase = .idle ∧ s.fault = false ∧ s.kvalid = false ∧ (s.input.cmd = 0b10#2 ∨ s.input.cmd = 0b11#2) :=
  ⟨⟨probeDone [], by decide⟩, ⟨probeFault .idle 0 0b10#2 [], by decide⟩,
    ⟨probe .idle 0 false (line (.loadkey 7#64)), by decide⟩, ⟨probeDone (line (.encrypt 7#32)), by decide⟩,
    ⟨probeDone (line (.decrypt 7#32)), by decide⟩, ⟨probe .idle 0 false (line (.decrypt 7#32)), by decide⟩⟩

theorem test_witness_CommandsAreAcceptedExactlyWhen :
    (∃ (c : Cmd) (s : State), c ≠ .nop ∧ s.phase = .idle ∧ s.fault = false ∧
      (c = .encrypt ∨ c = .decrypt → s.kvalid = true)) ∧
    ∃ (c : Cmd) (s : State), c ≠ .nop ∧
      ¬(s.phase = .idle ∧ s.fault = false ∧ (c = .encrypt ∨ c = .decrypt → s.kvalid = true)) :=
  ⟨⟨.decrypt, probeDone [], by decide⟩, ⟨.encrypt, probe .idle 0 false [], by decide⟩⟩

theorem test_witness_StepRunsTheDecodedWords :
    (∃ s : State, s.input.rst = false ∧ fetchUstep s = .ok .idle) ∧
    ∃ s : State, s.input.rst = false ∧ fetchUstep s = .ok .dec3 ∧ Instr.dec3 ≠ .idle :=
  ⟨⟨probeDone (line (.encrypt 7#32)), by decide, by decide⟩, ⟨probe .dec 3 true [], by decide, by decide, by decide⟩⟩

theorem test_witness_OnlyIllegalMicroStepsStop :
    (∃ s : State, s.input.rst = false ∧ s.phase = .idle ∧ s.rnd ≠ 0) ∧
    ∃ s : State, ¬(s.input.rst = false ∧ s.phase = .idle ∧ s.rnd ≠ 0) :=
  ⟨⟨probe .idle 1 true [], by decide⟩, ⟨probe .idle 3 true (line .reset), by decide⟩⟩

theorem test_witness_ResetStepClearsControl :
    ∃ s s' t t' u : State, (∀ k < 2 + 1, (s.inputAt k).rst = true) ∧ s'.input.rst = true ∧ step s = .next t ∧
      step s' = .next t' ∧ runFor (2 + 1) s = .next u :=
  ⟨probe .enc 2 true (line .reset ++ line .reset ++ line .reset), probe .idle 3 false (line .reset), _, _, _,
    by decide, by decide, rfl, rfl, rfl⟩

theorem test_witness_StepIsThePseudocode :
    (∃ s : State, s.input.rst = true ∧ ¬s.IdleRndZero) ∧ ∃ s : State, s.input.rst = false ∧ s.IdleRndZero :=
  ⟨⟨probe .idle 2 true (line .reset), by decide⟩, ⟨probe .enc 3 true (line (.decrypt 7#32)), by decide⟩⟩

theorem test_witness_SequencingIsFixed :
    (∃ s t : State, step s = .next t ∧ s.input.rst = true) ∧
    (∃ s t : State, step s = .next t ∧ s.input.rst = false ∧ s.phase ≠ .idle ∧ s.rnd.toNat < 3) ∧
    (∃ s t : State, step s = .next t ∧ s.input.rst = false ∧ s.phase ≠ .idle ∧ s.rnd.toNat = 3) ∧
    (∃ s t : State, step s = .next t ∧ s.input.rst = false ∧ s.phase = .idle ∧ accepts s.command s = true) ∧
    ∃ s t : State, step s = .next t ∧ s.input.rst = false ∧ s.phase = .idle ∧ accepts s.command s = false :=
  ⟨⟨probe .ks 1 false (line .reset), _, rfl, by decide⟩, ⟨probe .dec 2 true [], _, rfl, by decide⟩,
    ⟨probe .ks 3 false [], _, rfl, by decide⟩, ⟨probeDone (line (.encrypt 7#32)), _, rfl, by decide⟩,
    ⟨probe .idle 0 false (line (.encrypt 7#32)), _, rfl, by decide⟩⟩

theorem test_witness_DataRegistersHaveTheirWriters :
    (∃ s t : State, s.input.rst = false ∧ step s = .next t ∧ s.phase ≠ .enc ∧ s.phase ≠ .dec ∧
      ¬(needsKey s.command = true ∧ accepts s.command s = true)) ∧
    (∃ s t : State, s.input.rst = false ∧ step s = .next t ∧ needsKey s.command = true ∧ accepts s.command s = true) ∧
    (∃ s t : State, s.input.rst = false ∧ step s = .next t ∧ s.phase = .enc) ∧
    ∃ s t : State, s.input.rst = false ∧ step s = .next t ∧ s.phase = .dec :=
  ⟨⟨probe .ks 3 false [], _, by decide, rfl, by decide⟩,
    ⟨probeDone (line (.decrypt 7#32)), _, by decide, rfl, by decide⟩,
    ⟨probe .enc 3 true [], _, by decide, rfl, by decide⟩, ⟨probe .dec 0 true [], _, by decide, rfl, by decide⟩⟩

theorem test_witness_FlagsHaveTheirWriters : ∃ s t : State, step s = .next t ∧ s.phase = .enc ∧ s.rnd.toNat = 3 :=
  ⟨probe .enc 3 true [], _, rfl, by decide⟩

theorem test_witness_FaultsAreRaisedExactlyWhen :
    (∃ s t : State, s.input.rst = false ∧ s.fault = false ∧ step s = .next t ∧ s.phase ≠ .idle ∧ s.input.cmd ≠ 0b00#2) ∧
    (∃ s t : State, s.input.rst = false ∧ s.fault = false ∧ step s = .next t ∧ s.phase = .idle ∧
      (s.input.cmd = 0b10#2 ∨ s.input.cmd = 0b11#2) ∧ s.kvalid = false) ∧
    ∃ s t : State, s.input.rst = false ∧ s.fault = false ∧ step s = .next t ∧
      ¬(s.phase ≠ .idle ∧ s.input.cmd ≠ 0b00#2) ∧
      ¬(s.phase = .idle ∧ (s.input.cmd = 0b10#2 ∨ s.input.cmd = 0b11#2) ∧ s.kvalid = false) :=
  ⟨⟨probe .ks 1 false (line (.encrypt 7#32)), _, by decide, by decide, rfl, by decide⟩,
    ⟨probe .idle 0 false (line (.encrypt 7#32)), _, by decide, by decide, rfl, by decide⟩,
    ⟨probe .idle 0 false (line (.loadkey 7#64)), _, by decide, by decide, rfl, by decide⟩⟩

theorem test_witness_FaultsArePrecise :
    (∃ s : State, s.input.rst = false ∧ raised s.command s = some .busy) ∧
    ∃ s : State, s.input.rst = false ∧ raised s.command s = some .nokey :=
  ⟨⟨probe .enc 3 true (line (.loadkey 7#64)), by decide⟩, ⟨probe .idle 0 false (line (.encrypt 7#32)), by decide⟩⟩

theorem test_witness_FaultsAreStickyUntilReset :
    (∃ s t : State, s.fault = true ∧ s.NoReset 3 ∧ runFor 3 s = .next t) ∧
    ∃ s t : State, s.input.rst = true ∧ step s = .next t :=
  ⟨⟨probeFault .ks 2 0b10#2 (line (.loadkey 7#64)), _, by decide, by decide, rfl⟩,
    ⟨probeFault .idle 0 0b01#2 (line .reset), _, by decide, rfl⟩⟩

theorem test_witness_FaultedIdleCoreIsInert :
    ∃ s : State, s.phase = .idle ∧ s.rnd = 0 ∧ s.fault = true ∧ s.NoReset 2 :=
  ⟨probeFault .idle 0 0b01#2 (line (.loadkey 7#64) ++ line (.encrypt 7#32)), by decide⟩

theorem test_witness_DutifulHostRaisesNoFault :
    ∃ s t : State, s.Safe ∧ s.KeepsDuties 1 ∧ runFor 1 s = .next t :=
  ⟨probeDone (line (.encrypt 7#32)), _, rfl, ⟨fun _ => by decide, fun _ _ => trivial⟩, rfl⟩

theorem test_witness_IgnoredPortsDoNotMatter :
    (∃ a b : Input, a ≠ b ∧ a.rst = true ∧ b.rst = true) ∧
    (∃ (s : State) (a b : Input), a ≠ b ∧ a.rst = false ∧ b.rst = false ∧ a.cmd = b.cmd ∧
      (a.cmd = 0b01#2 → accepts .loadkey s = true → a.keyIn = b.keyIn) ∧
      (a.cmd = 0b10#2 → accepts .encrypt s = true → a.din = b.din) ∧
      (a.cmd = 0b11#2 → accepts .decrypt s = true → a.din = b.din)) ∧
    ∃ (s : State) (a b : Input), a ≠ b ∧ a.rst = false ∧ b.rst = false ∧ s.fault = true :=
  ⟨⟨⟨true, 0, 0, 0⟩, ⟨true, 3, 1, 1⟩, by decide⟩,
    ⟨probe .idle 0 true [], ⟨false, 1, 5, 0⟩, ⟨false, 1, 5, 9⟩, by decide⟩,
    ⟨probeFault .enc 2 0b10#2 [], ⟨false, 0, 0, 0⟩, ⟨false, 3, 1, 1⟩, by decide⟩⟩

theorem test_witness_UnwrittenRegistersAreUnobservable :
    ∃ s t : State, s ≠ t ∧ s.Agree t := by
  refine ⟨{ probe .idle 0 true [] with l := 1#16 }, { probe .idle 0 true [] with l := 2#16, key := 3#64 }, by decide, ?_⟩
  constructor <;> first | rfl | decide

theorem test_witness_InvariantIsKeptByEveryStep :
    ∃ s t : State, s.Inv ∧ step s = .next t ∧ s.phase = .ks ∧ s.rnd = 3 :=
  ⟨probe .ks 3 false [], _, by decide, rfl, by decide⟩

theorem test_witness_ReachableStatesAreWellFormed :
    ∃ s : State, Reachable s ∧ s.phase = .ks :=
  ⟨_, .step (State.afterReset 0 (line (.loadkey 7#64))) _ (.reset 0 _) rfl, rfl⟩

theorem test_witness_LoadkeyLoadsTheKeySchedule :
    ∃ s : State, s.phase = .idle ∧ s.rnd = 0 ∧ s.fault = false ∧ s.NoReset 5 ∧ s.input.cmd = 0b01#2 :=
  ⟨probe .idle 0 false (line (.loadkey 7#64) ++ line (.encrypt 7#32)), by decide⟩

theorem test_witness_EncryptProducesTheCiphertext :
    ∃ s : State, s.phase = .idle ∧ s.rnd = 0 ∧ s.fault = false ∧ s.kvalid = true ∧ s.NoReset 5 ∧
      s.input.cmd = 0b10#2 ∧ s.Inv :=
  ⟨keyedZero (line (.encrypt 7#32)), by decide⟩

theorem test_witness_DecryptProducesThePlaintext :
    ∃ s : State, s.phase = .idle ∧ s.rnd = 0 ∧ s.fault = false ∧ s.kvalid = true ∧ s.NoReset 5 ∧
      s.input.cmd = 0b11#2 ∧ s.Inv :=
  ⟨keyedZero (line (.decrypt 7#32)), by decide⟩

theorem test_witness_RoundTripAtThePorts :
    ∃ s : State, s.phase = .idle ∧ s.rnd = 0 ∧ s.fault = false ∧ s.kvalid = true ∧ s.NoReset 10 ∧
      s.input.cmd = 0b10#2 ∧ (s.inputAt 5).cmd = 0b11#2 ∧
      (∀ k : Nat, 1 ≤ k → k ≤ 9 → k ≠ 5 → (s.inputAt k).cmd = 0b00#2) ∧
      ∀ u, runFor 5 s = .next u → (s.inputAt 5).din = u.dout := by
  refine ⟨keyedZero (line (.encrypt 7#32) ++ List.replicate 4 idleInput ++
    line (.decrypt (encryptBlock Config.tables (keyedZero []).rk 7#32))), rfl, rfl, rfl, rfl, ?_, rfl, rfl, ?_, ?_⟩
  · intro k hk
    interval_cases k <;> rfl
  · intro k h1 h9 h5
    interval_cases k <;> first | rfl | exact absurd rfl h5
  · intro u h
    cases h
    rfl

theorem test_witness_SameKeyAndBlockGiveSameResult :
    ∃ s s' : State, s ≠ s' ∧ s.Inv ∧ s'.Inv ∧ s.phase = .idle ∧ s'.phase = .idle ∧ s.fault = false ∧ s'.fault = false ∧
      s.kvalid = true ∧ s'.kvalid = true ∧ s.NoReset 5 ∧ s'.NoReset 5 ∧
      (s.input.cmd = 0b10#2 ∨ s.input.cmd = 0b11#2) ∧ s.input.cmd = s'.input.cmd ∧ s.input.din = s'.input.din ∧
      s.key = s'.key :=
  ⟨keyedZero (line (.encrypt 7#32)), { keyedZero (line (.encrypt 7#32)) with l := 5#16, done := true }, by decide, by decide,
    by decide, rfl, rfl, rfl, rfl, rfl, rfl, by decide, by decide, by decide, rfl, rfl, rfl⟩

theorem test_witness_EveryOperationEnds : ∃ s : State, s.phase ≠ .idle ∧ s.NoReset (4 - s.rnd.toNat) :=
  ⟨probe .dec 0 true (line (.loadkey 7#64)), by decide⟩

theorem test_witness_PseudoCommandsExpand :
    (∃ s : State, s.phase ≠ .idle) ∧ (∃ s : State, accepts .loadkey s = true) ∧
    (∃ s : State, accepts .encrypt s = true ∧ accepts .decrypt s = true) ∧
    (∃ s : State, s.phase = .idle ∧ accepts .loadkey s = false) ∧
    ∃ s : State, s.phase = .idle ∧ accepts .encrypt s = false ∧ accepts .decrypt s = false :=
  ⟨⟨probe .ks 3 false [], by decide⟩, ⟨probe .idle 0 false [], by decide⟩, ⟨probeDone [], by decide⟩,
    ⟨probeFault .idle 0 0b10#2 [], by decide⟩, ⟨probe .idle 0 false [], by decide⟩⟩

theorem test_witness_ResetAbandonsTheOperation :
    ∃ s : State, s.phase = .enc ∧ s.input.rst = true ∧ (s.inputAt 1).rst = false ∧
      ((s.inputAt 1).cmd = 0b10#2 ∨ (s.inputAt 1).cmd = 0b11#2) :=
  ⟨probe .enc 2 true (line .reset ++ line (.decrypt 0#32)), by decide⟩

theorem test_witness_StatusShowsTheFlags : ∃ s : State, s.Inv ∧ s.done = true :=
  ⟨{ keyedZero [] with done := true }, by decide⟩

theorem test_witness_DoutShowsTheLastResult :
    (∃ s t : State, s.input.rst = false ∧ (s.phase = .enc ∨ s.phase = .dec) ∧ s.rnd.toNat = 3 ∧ step s = .next t) ∧
    (∃ s t : State, s.input.rst = false ∧ ¬((s.phase = .enc ∨ s.phase = .dec) ∧ s.rnd.toNat = 3) ∧ step s = .next t) ∧
    ∃ s : State, s.Inv ∧ s.done = true :=
  ⟨⟨probe .dec 3 true [], _, by decide, by decide, by decide, rfl⟩, ⟨probe .enc 2 true [], _, by decide, by decide, rfl⟩,
    ⟨{ keyedZero [] with done := true }, by decide⟩⟩

theorem test_witness_GateRefusesIllFormedStates :
    (∃ s : State, s.Wf) ∧ (∃ s : State, ¬s.Wf) ∧
    (∃ s : State, s.phase = .idle ∧ s.rnd ≠ 0) ∧ (∃ s : State, s.cause = 0b11#2) ∧
    (∃ s : State, s.cause ≠ 0b00#2 ∧ s.fault = false) ∧ (∃ s : State, s.cause = 0b00#2 ∧ s.fault = true) ∧
    (∃ s : State, s.kvalid = true ∧ s.rk ≠ keySchedule s.key) ∧
    (∃ s : State, (s.phase = .enc ∨ s.phase = .dec) ∧ s.kvalid = false) ∧
    ∃ s : State, s.done = true ∧ s.phase ≠ .idle :=
  ⟨⟨keyedZero [], by decide⟩, ⟨probe .idle 1 true [], by decide⟩, ⟨probe .idle 3 true [], by decide⟩,
    ⟨probeFault .idle 0 0b11#2 [], by decide⟩, ⟨{ probe .idle 0 true [] with cause := 1 }, by decide⟩,
    ⟨probeFault .idle 0 0b00#2 [], by decide⟩, ⟨{ probe .idle 0 true [] with key := 0 }, by decide⟩,
    ⟨probe .enc 0 false [], by decide⟩, ⟨{ probe .ks 0 false [] with done := true }, by decide⟩⟩

end Sys2Proof.Tests
end

section
/-! PROOFS. The key schedule (40_key_schedule.md R90 to R94): `ROTL32` as the library's rotation, each round key as
sixteen bits of the key, and the obligations about them. -/

namespace Sys2Proof.Machine

/-! ## `ROTL32` (R90) -/

/-- Inside the range R90 gives a meaning to, `ROTL32` is the library's circular rotation. -/
theorem rotl32_eq_rotateLeft (v : KeyHalf) {s : Nat} (hs : s < 32) : rotl32 v s = v.rotateLeft s := by
  have hshr : BitVec.ofNat 32 (v.toNat >>> (32 - s)) = v >>> (32 - s) := by
    rw [← BitVec.toNat_ushiftRight, BitVec.ofNat_toNat, BitVec.setWidth_eq]
  rw [rotl32, BitVec.ofNat_or, hshr, BitVec.rotateLeft_def, Nat.mod_eq_of_lt hs]
  rfl

theorem getLsbD_rotl32 (v : KeyHalf) {s b : Nat} (hs : s < 32) (hb : b < 32) :
    (rotl32 v s).getLsbD b = v.getLsbD ((b + (32 - s)) % 32) := by
  rw [rotl32_eq_rotateLeft v hs, BitVec.getLsbD_rotateLeft, Nat.mod_eq_of_lt hs]
  by_cases hbs : b < s
  · have hpos : (b + (32 - s)) % 32 = 32 - s + b := by omega
    simp [hbs, hpos]
  · have hpos : (b + (32 - s)) % 32 = b - s := by omega
    simp [hbs, hb, hpos]

/-- The low half of a rotation by at most 16: the low `a` bits move up, the top `s` bits come round below them. -/
theorem setWidth_rotl32 (v : KeyHalf) {a s : Nat} (h : a + s = 16) :
    (rotl32 v s).setWidth 16 = (v.extractLsb' 0 a ++ v.extractLsb' (32 - s) s).cast h := by
  refine BitVec.eq_of_getLsbD_eq fun b hb => ?_
  rw [BitVec.getLsbD_setWidth, getLsbD_rotl32 v (by omega) (by omega), BitVec.getLsbD_cast, BitVec.getLsbD_append]
  by_cases hbs : b < s
  · have hpos : (b + (32 - s)) % 32 = 32 - s + b := by omega
    simp [hbs, hb, hpos]
  · have hpos : (b + (32 - s)) % 32 = b - s := by omega
    have hlow : b - s < a := by omega
    simp [hbs, hb, hpos, hlow]

/-! ## `KSRK` (R91, R92) -/

theorem toNat_leftHalf (key : Key) : (leftHalf key).toNat = key.toNat / 2 ^ 32 := by
  rw [leftHalf, BitVec.extractLsb'_toNat, Nat.shiftRight_eq_div_pow, Nat.mod_eq_of_lt]
  omega

theorem toNat_rightHalf (key : Key) : (rightHalf key).toNat = key.toNat % 2 ^ 32 := by
  rw [rightHalf, BitVec.extractLsb'_toNat, Nat.shiftRight_zero]

/-- The half of R92 is the one `KS_HALF` names. -/
theorem ksHalf_eq_config (key : Key) (i : Fin 4) :
    ksHalf key i = if Config.ksFromLeft i = true then leftHalf key else rightHalf key := by
  fin_cases i <;> rfl

/-- The amount of R92 is `KS_ROT`. -/
theorem ksAmount_eq_ksRot (i : Fin 4) : ksAmount i = Config.ksRot i := by
  revert i; decide

/-- The constant of R92 is `KS_CONST`. -/
theorem ksConst_eq_succ (i : Fin 4) : Config.ksConst i = i.val + 1 := by
  revert i; decide

theorem ksAmount_cases (i : Fin 4) : ksAmount i = 3 ∨ ksAmount i = 5 ∨ ksAmount i = 7 ∨ ksAmount i = 9 := by
  revert i; decide

/-- The cut to 16 bits may be taken before the XOR. -/
theorem ksrk_eq_setWidth_xor (key : Key) (i : Fin 4) :
    ksrk key i = (rotl32 (ksHalf key i) (ksAmount i)).setWidth 16 ^^^ BitVec.ofNat 16 (i.val + 1) := by
  rw [ksrk, BitVec.setWidth_xor, BitVec.setWidth_ofNat_of_le (by decide)]

/-! ## The round keys as key bits (R94) -/

/-- The key bit at which the half of round key `i` begins. -/
def ksHalfStart (i : Fin 4) : Nat := if i.val < 2 then 32 else 0

theorem ksHalf_eq_extractLsb' (key : Key) (i : Fin 4) : ksHalf key i = key.extractLsb' (ksHalfStart i) 32 := by
  unfold ksHalf ksHalfStart
  split <;> rfl

/-- A field of a round key's half is a field of the key. -/
theorem extractLsb'_ksHalf (key : Key) (i : Fin 4) {start len : Nat} (h : start + len ≤ 32) :
    (ksHalf key i).extractLsb' start len = key.extractLsb' (ksHalfStart i + start) len := by
  refine BitVec.eq_of_getLsbD_eq fun b hb => ?_
  have hin : start + b < 32 := by omega
  simp [ksHalf_eq_extractLsb', hin, Nat.add_assoc]

/-- A round key in bits of its half. -/
theorem ksrk_eq_halfBits (key : Key) (i : Fin 4) {a : Nat} (h : a + ksAmount i = 16) :
    ksrk key i =
      ((ksHalf key i).extractLsb' 0 a ++ (ksHalf key i).extractLsb' (32 - ksAmount i) (ksAmount i)).cast h
        ^^^ BitVec.ofNat 16 (i.val + 1) := by
  rw [ksrk_eq_setWidth_xor, setWidth_rotl32 _ h]

/-- A round key in bits of the key. -/
theorem ksrk_eq_keyBits (key : Key) (i : Fin 4) {a : Nat} (h : a + ksAmount i = 16) :
    ksrk key i =
      (key.extractLsb' (ksHalfStart i) a
        ++ key.extractLsb' (ksHalfStart i + (32 - ksAmount i)) (ksAmount i)).cast h
        ^^^ BitVec.ofNat 16 (i.val + 1) := by
  rw [ksrk_eq_halfBits key i h, extractLsb'_ksHalf key i (by omega), extractLsb'_ksHalf key i (by omega),
    Nat.add_zero]

/-- A field depends on its own bits only. -/
theorem extractLsb'_congr {w : Nat} {x y : BitVec w} {start len : Nat}
    (h : ∀ b, start ≤ b → b < start + len → x.getLsbD b = y.getLsbD b) :
    x.extractLsb' start len = y.extractLsb' start len := by
  refine BitVec.eq_of_getLsbD_eq fun b hb => ?_
  simp [hb, h (start + b) (by omega) (by omega)]

/-- The key bits no round key uses: `key[22:9]` and `key[58:45]`. -/
def UnusedKeyBit (b : Nat) : Prop := 9 ≤ b ∧ b ≤ 22 ∨ 45 ≤ b ∧ b ≤ 58

/-- Both fields of each round key stay clear of the unused bits. -/
theorem ksFields_avoid_unused (i : Fin 4) {b : Nat}
    (hb : ksHalfStart i ≤ b ∧ b < ksHalfStart i + (16 - ksAmount i) ∨
      ksHalfStart i + (32 - ksAmount i) ≤ b ∧ b < ksHalfStart i + 32) :
    b < 64 ∧ ¬UnusedKeyBit b := by
  unfold UnusedKeyBit
  fin_cases i <;> simp [ksHalfStart, ksAmount] at hb <;> omega

theorem ksrk_congr {k1 k2 : Key} (h : ∀ b, b < 64 → ¬UnusedKeyBit b → k1.getLsbD b = k2.getLsbD b) (i : Fin 4) :
    ksrk k1 i = ksrk k2 i := by
  have hle : ksAmount i ≤ 16 := by have := ksAmount_cases i; omega
  have hlow : k1.extractLsb' (ksHalfStart i) (16 - ksAmount i) = k2.extractLsb' (ksHalfStart i) (16 - ksAmount i) :=
    extractLsb'_congr fun b h1 h2 =>
      have ⟨hlt, hused⟩ := ksFields_avoid_unused i (.inl ⟨h1, h2⟩)
      h b hlt hused
  have htop : k1.extractLsb' (ksHalfStart i + (32 - ksAmount i)) (ksAmount i) =
      k2.extractLsb' (ksHalfStart i + (32 - ksAmount i)) (ksAmount i) :=
    extractLsb'_congr fun b h1 h2 =>
      have ⟨hlt, hused⟩ := ksFields_avoid_unused i (.inr ⟨h1, by omega⟩)
      h b hlt hused
  rw [ksrk_eq_keyBits k1 i (Nat.sub_add_cancel hle), ksrk_eq_keyBits k2 i (Nat.sub_add_cancel hle), hlow, htop]

/-- Keys that differ in unused bits only have the same round keys. -/
theorem keySchedule_congr {k1 k2 : Key} (h : ∀ b, b < 64 → ¬UnusedKeyBit b → k1.getLsbD b = k2.getLsbD b) :
    keySchedule k1 = keySchedule k2 := by
  simp only [keySchedule, ksrk_congr h]

/-- Round keys 0 and 2 of this key are equal: bit 26 alone gives `KSRK(key, 2)` the value `0x0002 ^ 0x0003`. -/
theorem ksrk_not_distinct : ksrk 0x0000000004000000#64 0 = ksrk 0x0000000004000000#64 2 := by decide

/-! ## The obligations -/

/-- Settles O1: the bit law of the library's rotation, and the amounts and examples by evaluation. -/
theorem rotationIsCircular : Obligations.RotationIsCircular := by
  refine ⟨fun v s _ hs => ⟨?_, fun b => getLsbD_rotl32 v hs b.isLt⟩, ksAmount_cases, ?_⟩
  · rw [rotl32, BitVec.toNat_ofNat]
  · decide

/-- Settles O2: the parameters of R6 agree with R92's expressions, and truncation distributes over XOR. -/
theorem roundKeyFormula : Obligations.RoundKeyFormula := by
  refine ⟨by decide, by decide, fun key i =>
    ⟨toNat_leftHalf key, toNat_rightHalf key, ?_, ksrk_eq_setWidth_xor key i⟩⟩
  rw [ksrk, ksHalf_eq_config, ksAmount_eq_ksRot, ksConst_eq_succ]

/-- Settles O3: the general extraction law at the four indices, in the halves and in the key. -/
theorem keyScheduleExtractsKeyBits : Obligations.KeyScheduleExtractsKeyBits := by
  refine ⟨fun key => ?_, fun k1 k2 h => ?_, by decide, by decide, by decide, _, 0, 2, by decide, ksrk_not_distinct⟩
  · exact ⟨ksrk_eq_halfBits key 0 (a := 13) rfl, ksrk_eq_halfBits key 1 (a := 11) rfl,
      ksrk_eq_halfBits key 2 (a := 9) rfl, ksrk_eq_halfBits key 3 (a := 7) rfl,
      ksrk_eq_keyBits key 0 (a := 13) rfl, ksrk_eq_keyBits key 1 (a := 11) rfl,
      ksrk_eq_keyBits key 2 (a := 9) rfl, ksrk_eq_keyBits key 3 (a := 7) rfl⟩
  · exact keySchedule_congr fun b hb hused =>
      h ⟨b, hb⟩ (fun hr => hused (.inl hr)) (fun hl => hused (.inr hl))

end Sys2Proof.Machine
end

section
/-! PROOFS. The permutation stage (41_sbox_pbox.md R113 to R115): the bits of `PERM`, `PINV` as the inverse of `PBOX0`, and
the obligation about them. -/

namespace Sys2Proof.Machine

/-! ## `PINV` is the inverse of `PBOX0` (R115) -/

/-- `PINV[j]` is a source position of `j` wherever there is one. -/
theorem pbox0_pinv_of_exists (t : Tables) {j : Fin 16} (h : ∃ i, pbox0 t i = j) : pbox0 t (pinv t j) = j := by
  obtain ⟨i, hi⟩ := h
  have hsome := List.find?_isSome (p := fun i => pbox0 t i == j).mpr ⟨i, mem_all16 i, beq_iff_eq.mpr hi⟩
  obtain ⟨k, hk⟩ := Option.isSome_iff_exists.mp hsome
  rw [pinv, hk]
  simpa using List.find?_some hk

theorem pbox0_pinv {t : Tables} (h : t.PboxWf) (j : Fin 16) : pbox0 t (pinv t j) = j :=
  pbox0_pinv_of_exists t ((pbox0_bijective t h).surjective j)

theorem eq_pinv_of_pbox0_eq {t : Tables} (h : t.PboxWf) {i j : Fin 16} (hij : pbox0 t i = j) : i = pinv t j :=
  (pbox0_bijective t h).injective (hij.trans (pbox0_pinv h j).symm)

/-! ## The bits of `PERM` (R114, R115) -/

/-- For any table, bit `j` of `PERM(y)` is 1 exactly when a 1 bit of `y` is sent there. -/
theorem getLsbD_perm_iff (t : Tables) (y : Half) (j : Fin 16) :
    (perm t y).getLsbD j.val = true ↔ ∃ i : Fin 16, y.getLsbD i.val = true ∧ pbox0 t i = j := by
  rw [perm, foldl_permStep]
  simp only [BitVec.getLsbD_zero, Bool.false_eq_true, false_or, mem_all16, true_and]

/-- Scatter: no two source positions share a target, so the target of `i` holds bit `i` and nothing else. -/
theorem getLsbD_perm_pbox0 {t : Tables} (h : t.PboxWf) (y : Half) (i : Fin 16) :
    (perm t y).getLsbD (pbox0 t i).val = y.getLsbD i.val := by
  rw [Bool.eq_iff_iff, getLsbD_perm_iff]
  constructor
  · rintro ⟨k, hk, hki⟩
    rwa [← (pbox0_bijective t h).injective hki]
  · exact fun hi => ⟨i, hi, rfl⟩

/-- Gather: the scatter law read at the source position of `j`. -/
theorem getLsbD_perm_pinv {t : Tables} (h : t.PboxWf) (y : Half) (j : Fin 16) :
    (perm t y).getLsbD j.val = y.getLsbD (pinv t j).val := by
  rw [← getLsbD_perm_pbox0 h y (pinv t j), pbox0_pinv h j]

/-- The scatter law recovers every bit of `y` from `PERM(y)`; on the finitely many halves injective is bijective. -/
theorem perm_bijective {t : Tables} (h : t.PboxWf) : Function.Bijective (perm t) := by
  refine Finite.injective_iff_bijective.mp fun x y hxy => half_ext x y fun i => ?_
  rw [← getLsbD_perm_pbox0 h x i, hxy, getLsbD_perm_pbox0 h y i]

/-! ## The obligation -/

/-- Settles O6: the inverse laws of `PINV`, and the scatter law of `PERM` read in both directions. -/
theorem permutationGathersThroughPinv : Obligations.PermutationGathersThroughPinv := fun _ h =>
  ⟨pbox0_pinv h, fun _ _ => eq_pinv_of_pbox0_eq h, getLsbD_perm_pinv h, perm_bijective h,
    fun _ y hp i => hp ▸ (getLsbD_perm_pbox0 h y i).symm⟩

end Sys2Proof.Machine
end

section
/-! PROOFS. The inverse laws of the Feistel structure (43_feistel_round.md R140 to R146): split and join, one round each way,
four rounds each way, and the obligations about them. -/

namespace Sys2Proof.Machine

/-! ## Split and join (R140) -/

@[simp] theorem splitBlock_joinBlock (lr : Half × Half) : splitBlock (joinBlock lr) = lr :=
  Prod.ext BitVec.extractLsb'_append_eq_left BitVec.extractLsb'_append_eq_right

@[simp] theorem joinBlock_splitBlock (b : Block) : joinBlock (splitBlock b) = b :=
  BitVec.extractLsb'_append_extractLsb' (w := 16) (len := 16)

/-! ## One round (R143)

The half that goes through F is kept as it is, so both directions XOR the other half with the same value of F. Nothing is
asked of F. -/

theorem xor_xor_self (x f : Half) : x ^^^ f ^^^ f = x := by
  rw [BitVec.xor_assoc, BitVec.xor_self, BitVec.xor_zero]

@[simp] theorem decRound_encRound (t : Tables) (lr : Half × Half) (k : Half) :
    decRound t (encRound t lr k) k = lr := by
  obtain ⟨l, r⟩ := lr
  simp only [encRound, decRound, xor_xor_self]

@[simp] theorem encRound_decRound (t : Tables) (lr : Half × Half) (k : Half) :
    encRound t (decRound t lr k) k = lr := by
  obtain ⟨l, r⟩ := lr
  simp only [encRound, decRound, xor_xor_self]

/-! ## Four rounds (R146)

The second direction's first key is the first direction's last, so the rounds cancel in pairs, innermost first. -/

@[simp] theorem decryptBlock_encryptBlock (t : Tables) (rk : RoundKeys) (p : Block) :
    decryptBlock t rk (encryptBlock t rk p) = p := by
  simp only [decryptBlock, encryptBlock, splitBlock_joinBlock, decRound_encRound, joinBlock_splitBlock]

@[simp] theorem encryptBlock_decryptBlock (t : Tables) (rk : RoundKeys) (c : Block) :
    encryptBlock t rk (decryptBlock t rk c) = c := by
  simp only [decryptBlock, encryptBlock, splitBlock_joinBlock, encRound_decRound, joinBlock_splitBlock]

/-! ## The obligations -/

/-- Settles O10: the two laws of one round, at the pair `(l, r)`. -/
theorem feistelRoundsUndoEachOther : Obligations.FeistelRoundsUndoEachOther := fun t l r k =>
  ⟨decRound_encRound t (l, r) k, encRound_decRound t (l, r) k⟩

/-- Settles O12: the two laws of four rounds; a function with a two-sided inverse is a bijection. -/
theorem encryptDecryptRoundTrip : Obligations.EncryptDecryptRoundTrip := fun t rk =>
  have hleft := decryptBlock_encryptBlock t rk
  have hright := encryptBlock_decryptBlock t rk
  ⟨hleft, hright, Function.bijective_iff_has_inverse.mpr ⟨_, hleft, hright⟩, hleft, hright⟩

end Sys2Proof.Machine
end

section
/-! PROOFS. The whole operations LOADKEY and ENCRYPT (44_controller.md R170, R171): the acceptance and four micro-steps,
followed by a predicate that says what `n` micro-steps have done, and the obligations about them. -/

namespace Sys2Proof.Machine

/-! ## Runs -/

/-- After `n` steps the first `n` lines have been presented. -/
theorem run_script (n : Nat) (s t : State) (h : runFor n s = .next t) : t.script = s.script.drop n := by
  induction n generalizing s with
  | zero => cases h; rfl
  | succ n ih =>
    obtain ⟨u, hu, hrun⟩ := run_succ_next n s t h
    rw [ih u hrun, step_script s u hu, List.drop_tail]

/-- The inputs of the step after `n` steps are those of line `n`. -/
theorem input_run (n : Nat) (s t : State) (h : runFor n s = .next t) : t.input = s.inputAt n := by
  rw [input_eq, State.inputAt, run_script n s t h, List.getD_eq_getElem?_getD, List.getElem?_drop]
  rfl

/-- A predicate on the step number and the state that every step without a reset carries on is met all along a run. -/
theorem run_of_steps {P : Nat → State → Prop} {m : Nat} {s : State} (hn : s.NoReset m) (h0 : P 0 s)
    (hstep : ∀ n u, n < m → u.input.rst = false → P n u → ∃ v, step u = .next v ∧ P (n + 1) v) {n : Nat} (hm : n ≤ m) :
    ∃ u, runFor n s = .next u ∧ P n u := by
  induction n with
  | zero => exact ⟨s, rfl, h0⟩
  | succ n ih =>
    obtain ⟨u, hrun, hu⟩ := ih (by omega)
    have hrst : u.input.rst = false := by rw [input_run n s u hrun, hn n hm]
    obtain ⟨v, huv, hv⟩ := hstep n u hm hrst hu
    exact ⟨v, (run_add n 1 s u hrun).trans (run_succ 0 u v huv), hv⟩

/-- The same for a run whose first step accepts the command on the port: the predicate counts the steps after it. -/
theorem run_of_accepts {P : Nat → State → Prop} {m : Nat} {s : State} (hn : s.NoReset (m + 1))
    (hacc : accepts s.command s = true) (hrnd : s.rnd = 0) (h0 : P 0 (acceptOf s.command s s).advance)
    (hstep : ∀ n u, n < m → u.input.rst = false → P n u → ∃ v, step u = .next v ∧ P (n + 1) v) {n : Nat} (hm : n ≤ m) :
    ∃ u, runFor (n + 1) s = .next u ∧ P n u := by
  have hfirst := step_accepts s (hn 0 (Nat.succ_pos m)) hacc hrnd
  obtain ⟨u, hrun, hu⟩ := run_of_steps (noReset_cons s _ m hn hfirst).2 h0 hstep hm
  exact ⟨u, runFor_cons n s _ u hfirst hrun, hu⟩

/-- `RND` during micro-step `n`, as a number. -/
theorem toNat_of_eq_ofNat {n : Nat} (hn : n < 4) {x : BitVec 2} (h : x = BitVec.ofNat 2 n) : x.toNat = n := by
  rw [h, BitVec.toNat_ofNat, Nat.mod_eq_of_lt hn]

/-- The move of `RND` in micro-step `n` is counting modulo 4 (10_state.md R24). -/
theorem nextRnd_eq_ofNat_succ {n : Nat} (h : n < 4) :
    (if n < 3 then BitVec.ofNat 2 n + 1 else 0) = BitVec.ofNat 2 (n + 1) := by
  interval_cases n <;> rfl

/-- A valid round-key file is the key schedule of `KEY` (10_state.md R34 (e)). -/
theorem rk_eq_keySchedule {s : State} (h : s.KeysValid) (hk : s.kvalid = true) : s.rk = keySchedule s.key :=
  roundKeys_ext _ _ fun i => (h hk i).trans (keySchedule_get s.key i).symm

/-! ## LOADKEY (R170) -/

/-- What `n` KS micro-steps after the acceptance of key `k` in `s` leave: the round keys below `n` belong to `k`, and the
fourth completes the load. -/
structure KeysWritten (k : Key) (s : State) (n : Nat) (u : State) : Prop where
  key      : u.key = k
  rk       : ∀ j : Fin 4, j.val < n → u.rk.get j = ksrk k j
  phase    : u.phase = if n < 4 then .ks else .idle
  rnd      : u.rnd = BitVec.ofNat 2 n
  kvalid   : u.kvalid = if n < 4 then false else true
  done     : u.done = false
  l        : u.l = s.l
  r        : u.r = s.r
  dout     : u.dout = s.dout
  doutHeld : u.doutHeld = s.doutHeld

theorem keysWritten_accept (k : Key) (s : State) : KeysWritten k s 0 (acceptKey k s).advance := by
  constructor <;> simp

/-- KS micro-step `n` writes round key `n` and leaves those below it. -/
theorem keysWritten_step {k : Key} {s u : State} {n : Nat} (hn : n < 4) (hr : u.input.rst = false)
    (h : KeysWritten k s n u) : ∃ v, step u = .next v ∧ KeysWritten k s (n + 1) v := by
  have hrnd : u.rnd.toNat = n := toNat_of_eq_ofNat hn h.rnd
  have hlast : n + 1 < 4 ↔ n < 3 := Nat.succ_lt_succ_iff
  obtain ⟨v, hv, hkey, hrk, hl, hr', hdout, hdone, hheld, hphase, hrnd', hkvalid⟩ :=
    step_ks u hr (by simp [h.phase, hn])
  rw [hrnd] at hphase hrnd' hkvalid
  refine ⟨v, hv, ?_⟩
  constructor
  case key => rw [hkey, h.key]
  case rk =>
    intro j hj
    rw [hrk, h.key]
    by_cases hjn : j = u.rnd.toFin
    · rw [hjn, get_set_same]
    · have hne : j.val ≠ n := fun he => hjn (Fin.ext (he.trans hrnd.symm))
      rw [get_set_other _ _ _ _ hjn, h.rk j (by omega)]
  case phase => simp only [hphase, hlast]
  case rnd => rw [hrnd', h.rnd, nextRnd_eq_ofNat_succ hn]
  case kvalid => simp only [hkvalid, h.kvalid, hn, hlast, if_true]
  case done => rw [hdone, h.done]
  case l => rw [hl, h.l]
  case r => rw [hr', h.r]
  case dout => rw [hdout, h.dout]
  case doutHeld => rw [hheld, h.doutHeld]

/-- Four KS micro-steps have written the whole key schedule. -/
theorem KeysWritten.rk_eq {k : Key} {s u : State} (h : KeysWritten k s 4 u) : u.rk = keySchedule k :=
  roundKeys_ext _ _ fun i => (h.rk i i.isLt).trans (keySchedule_get k i).symm

/-- The run of LOADKEY from an idle, unfaulted state: the acceptance and `n` micro-steps. -/
theorem run_loadkey {s : State} (hp : s.phase = .idle) (h0 : s.rnd = 0) (hf : s.fault = false) (hn : s.NoReset 5)
    (hc : s.input.cmd = 0b01#2) {n : Nat} (hm : n ≤ 4) :
    ∃ u, runFor (n + 1) s = .next u ∧ KeysWritten s.input.keyIn s n u := by
  have hcmd : s.command = .loadkey := by rw [State.command, hc]; rfl
  have hacc : accepts s.command s = true := by simp [accepts_iff, hcmd, hp, hf, needsKey]
  refine run_of_accepts hn hacc h0 ?_ (fun _ _ => keysWritten_step) hm
  rw [hcmd]
  exact keysWritten_accept s.input.keyIn s

/-! ## ENCRYPT (R171)

The predicate and its two ends do not look at the direction of the rounds: DECRYPT (R172) meets it with its own phase and
its own halves. -/

/-- What `n` rounds of phase `p` after the acceptance of a block in `s` leave, when the halves are then `lr`: the fourth
round completes the operation with `lr` on `DOUT` (R167). -/
structure RoundsDone (p : Phase) (s : State) (lr : Half × Half) (n : Nat) (u : State) : Prop where
  key      : u.key = s.key
  rk       : u.rk = s.rk
  kvalid   : u.kvalid = s.kvalid
  halves   : (u.l, u.r) = lr
  phase    : u.phase = if n < 4 then p else .idle
  rnd      : u.rnd = BitVec.ofNat 2 n
  done     : u.done = if n < 4 then false else true
  dout     : u.dout = if n < 4 then s.dout else joinBlock lr
  doutHeld : u.doutHeld = if n < 4 then s.doutHeld else true

theorem roundsDone_accept (p : Phase) (lr : Half × Half) (s : State) :
    RoundsDone p s lr 0 (acceptBlock p lr s).advance := by
  constructor <;> simp

/-- ENC micro-step `n` performs round `n` under `RK[n]`. -/
theorem roundsDone_step_enc {s u : State} {lr : Half × Half} {n : Nat} (hn : n < 4) (hr : u.input.rst = false)
    (h : RoundsDone .enc s lr n u) :
    ∃ v, step u = .next v ∧
      RoundsDone .enc s (encRound Config.tables lr (s.rk.get (Fin.ofNat 4 n))) (n + 1) v := by
  have hrnd : u.rnd.toNat = n := toNat_of_eq_ofNat hn h.rnd
  have hround : u.rnd.toFin = Fin.ofNat 4 n := by rw [h.rnd]; rfl
  have hlast : n + 1 < 4 ↔ n < 3 := Nat.succ_lt_succ_iff
  obtain ⟨v, hv, hkey, hrk, hkvalid, hhalves, hdout, hdone, hheld, hphase, hrnd'⟩ :=
    step_enc u hr (by simp [h.phase, hn])
  rw [hrnd] at hdout hdone hheld hphase hrnd'
  rw [h.halves, h.rk, hround] at hhalves
  refine ⟨v, hv, ?_⟩
  constructor
  case key => rw [hkey, h.key]
  case rk => rw [hrk, h.rk]
  case kvalid => rw [hkvalid, h.kvalid]
  case halves => exact hhalves
  case phase => simp only [hphase, hlast]
  case rnd => rw [hrnd', h.rnd, nextRnd_eq_ofNat_succ hn]
  case done => simp only [hdone, h.done, hn, hlast, if_true]
  case dout => simp only [hdout, h.dout, hn, hlast, if_true, ← hhalves, joinBlock]
  case doutHeld => simp only [hheld, h.doutHeld, hn, hlast, if_true]

/-- After completion `L` and `R` are the halves of `DOUT`. -/
theorem RoundsDone.split_dout {p : Phase} {s u : State} {lr : Half × Half} (h : RoundsDone p s lr 4 u) :
    (u.l, u.r) = splitBlock u.dout := by
  rw [h.halves, h.dout]
  exact (splitBlock_joinBlock lr).symm

/-- The last pair of R144, joined, is the encryption. -/
theorem joinBlock_encPair (t : Tables) (rk : RoundKeys) (p : Block) :
    joinBlock (encPair t rk p 4) = encryptBlock t rk p := rfl

/-- The run of ENCRYPT from an idle, unfaulted, keyed state: the acceptance and `n` rounds. -/
theorem run_encrypt {s : State} (hp : s.phase = .idle) (h0 : s.rnd = 0) (hf : s.fault = false) (hk : s.kvalid = true)
    (hn : s.NoReset 5) (hc : s.input.cmd = 0b10#2) {n : Nat} (hm : n ≤ 4) :
    ∃ u, runFor (n + 1) s = .next u ∧ RoundsDone .enc s (encPair Config.tables s.rk s.input.din n) n u := by
  have hcmd : s.command = .encrypt := by rw [State.command, hc]; rfl
  have hacc : accepts s.command s = true := by simp [accepts_iff, hcmd, hp, hf, hk]
  refine run_of_accepts (P := fun n => RoundsDone .enc s (encPair Config.tables s.rk s.input.din n) n) hn hacc h0 ?_
    (fun _ _ => roundsDone_step_enc) hm
  rw [hcmd]
  exact roundsDone_accept .enc s.blockOperand s

/-! ## The obligations -/

/-- Settles O43: the run of LOADKEY after four micro-steps, and after fewer. -/
theorem loadkeyLoadsTheKeySchedule : Obligations.LoadkeyLoadsTheKeySchedule := by
  intro s hp h0 hf hn hc
  constructor
  · obtain ⟨t, hrun, h⟩ := run_loadkey hp h0 hf hn hc (le_refl 4)
    exact ⟨t, hrun, h.key, h.rk_eq, h.kvalid, h.phase, h.rnd, h.done, h.dout, h.l, h.r, h.doutHeld,
      run_script 5 s t hrun⟩
  · rintro (_ | n) hpos hle
    · omega
    · obtain ⟨u, hrun, h⟩ := run_loadkey hp h0 hf hn hc (n := n) (by omega)
      have hlt : n < 4 := hle
      exact ⟨u, hrun, by simp [h.kvalid, hlt], by simp [State.busy, h.phase, hlt]⟩

/-- Settles O44: the run of ENCRYPT, whose halves after `n` rounds are the pairs of R144; the invariant's part R34 (e) turns
`RK` into the key schedule. -/
theorem encryptProducesTheCiphertext : Obligations.EncryptProducesTheCiphertext := by
  intro s hp h0 hf hk hn hc
  constructor
  · obtain ⟨t, hrun, h⟩ := run_encrypt hp h0 hf hk hn hc (le_refl 4)
    have hdout : t.dout = encryptBlock Config.tables s.rk s.input.din := h.dout.trans (joinBlock_encPair _ _ _)
    obtain ⟨hl, hr⟩ := Prod.mk.inj h.split_dout
    refine ⟨t, hrun, hdout, h.done, h.phase, h.rnd, hl, hr, h.key, h.rk, h.kvalid.trans hk, h.doutHeld,
      run_script 5 s t hrun, ?_⟩
    rintro ⟨⟨_, _, _, _, hkeys, _⟩, _, _⟩
    rw [hdout, rk_eq_keySchedule hkeys hk]
  · intro n hle
    obtain ⟨u, hrun, h⟩ := run_encrypt hp h0 hf hk hn hc hle
    exact ⟨u, hrun, h.halves⟩

end Sys2Proof.Machine
end

section
/-! PROOFS. Faults are precise and sticky (60_exceptions.md R192, R196): a step that raises a fault beside the same step with
NOP on the port, `FAULT` and `CAUSE` along a run, and the obligations about them. -/

namespace Sys2Proof.Machine

/-! ## The same step with NOP on the port (R192) -/

/-- This step's inputs with NOP on the `cmd` port in place of its command. -/
def State.withNop (s : State) : State := s.setInput { s.input with cmd := 0b00#2 }

@[simp] theorem withNop_command (s : State) : s.withNop.command = .nop := rfl

@[simp] theorem withNop_phase (s : State) : s.withNop.phase = s.phase := rfl

@[simp] theorem withNop_rnd (s : State) : s.withNop.rnd = s.rnd := rfl

/-- What is put on the port is gone once its line has been presented. -/
@[simp] theorem advance_withNop (s : State) : s.withNop.advance = s.advance := rfl

theorem advance_raiseFault (v : Violation) (s : State) : (raiseFault v s).advance = raiseFault v s.advance := rfl

/-- Micro-steps read no port (44_controller.md R160). -/
theorem advance_microOf_withNop (p : Phase) (i : Fin 4) (s : State) :
    (microOf p i s.withNop).advance = (microOf p i s).advance := by
  cases p with
  | idle => rfl
  | ks | enc | dec =>
    simp only [microOf, ksMicroStep, encMicroStep, decMicroStep, finishRound]
    split <;> rfl

theorem present_of_raised {c : Cmd} {s : State} {v : Violation} (h : raised c s = some v) (f : State → State) :
    present c f s = raiseFault v s := by
  simp only [present, h]

theorem present_nop_id (s : State) : present .nop id s = s := by
  simp [present, raised_nop]

/-- A busy step with NOP on the port is its micro-step alone. -/
theorem step_withNop_busy {s : State} (hr : s.input.rst = false) (hp : s.phase ≠ .idle) :
    step s.withNop = .next (microOf s.phase s.rnd.toFin s).advance := by
  rw [step_busy s.withNop hr hp, withNop_command, present_nop_id, withNop_phase, withNop_rnd, advance_microOf_withNop]

/-- A step that raises a fault is the same step with NOP on the port, and fault entry after it. -/
theorem step_of_raised {s : State} {v : Violation} (hr : s.input.rst = false) (h : raised s.command s = some v) :
    step s = andThen (step s.withNop) fun t => .next (raiseFault v t) := by
  by_cases hp : s.phase = .idle
  · by_cases h0 : s.rnd = 0
    · rw [step_idle s hr hp h0, present_of_raised h, advance_raiseFault,
        step_quiet s.withNop hr hp h0 (.inr (withNop_command s)), advance_withNop, andThen]
    · rw [step_illegal s hr hp h0, step_illegal s.withNop hr hp h0, andThen]
  · rw [step_busy s hr hp, present_of_raised h, microOf_raiseFault, advance_raiseFault, step_withNop_busy hr hp, andThen]

/-! ## `FAULT` and `CAUSE` along a run (R196) -/

/-- In a faulted state no step without a reset raises anything, so `FAULT` and `CAUSE` stay. -/
theorem step_keeps_fault {s t : State} (hf : s.fault = true) (hr : s.input.rst = false) (h : step s = .next t) :
    t.fault = true ∧ t.cause = s.cause := by
  obtain ⟨hfault, hcause⟩ := step_faults s t hr h
  rw [raised_of_fault _ _ hf] at hfault hcause
  exact ⟨hfault.trans hf, hcause⟩

theorem run_keeps_fault (n : Nat) (s t : State) (hf : s.fault = true) (hn : s.NoReset n) (h : runFor n s = .next t) :
    t.fault = true ∧ t.cause = s.cause := by
  induction n generalizing s with
  | zero => cases h; exact ⟨hf, rfl⟩
  | succ n ih =>
    obtain ⟨u, hu, hrun⟩ := run_succ_next n s t h
    obtain ⟨hr, hn'⟩ := noReset_cons s u n hn hu
    obtain ⟨hfu, hcu⟩ := step_keeps_fault hf hr hu
    obtain ⟨hft, hct⟩ := ih u hfu hn' hrun
    exact ⟨hft, hct.trans hcu⟩

theorem step_reset_clears_fault {s t : State} (hr : s.input.rst = true) (h : step s = .next t) :
    t.fault = false ∧ t.cause = 0b00#2 := by
  cases (step_reset s hr).symm.trans h
  exact ⟨rfl, rfl⟩

/-! ## The obligations -/

/-- Settles O34: fault entry writes `FAULT` and `CAUSE`, and commutes with the micro-step that is due. -/
theorem faultsArePrecise : Obligations.FaultsArePrecise := fun _ _ => step_of_raised

/-- Settles O35: by induction on the number of steps, and the reset step. -/
theorem faultsAreStickyUntilReset : Obligations.FaultsAreStickyUntilReset :=
  ⟨run_keeps_fault, fun _ _ => step_reset_clears_fault⟩

end Sys2Proof.Machine
end

section
/-! PROOFS. The encodings (30_encoding.md R70 to R76): instruction words, the 99-bit words of script lines, and the
obligations about them. -/

namespace Sys2Proof

/-! ## Instruction words (R70 to R74) -/

/-- Every row of the opcode table, one lemma per row. -/
theorem encodeDecode_statement (i : Instr) : Laws.EncodeDecode.Statement i := by
  cases i
  exacts [Laws.EncodeDecode.nop, Laws.EncodeDecode.loadkey, Laws.EncodeDecode.encrypt, Laws.EncodeDecode.decrypt,
    Laws.EncodeDecode.idle, Laws.EncodeDecode.ks0, Laws.EncodeDecode.ks1, Laws.EncodeDecode.ks2, Laws.EncodeDecode.ks3,
    Laws.EncodeDecode.enc0, Laws.EncodeDecode.enc1, Laws.EncodeDecode.enc2, Laws.EncodeDecode.enc3,
    Laws.EncodeDecode.dec0, Laws.EncodeDecode.dec1, Laws.EncodeDecode.dec2, Laws.EncodeDecode.dec3]

theorem instr_wf (i : Instr) : i.wf = true := by
  cases i <;> rfl

/-- A well-formed word is the word of the row the decoder reads; no other word is read. -/
theorem decode_bits (f : Format) (b : BitVec 4) :
    (InstrWord.wf ⟨f, b⟩ = true ∧ (decode ⟨f, b⟩).map encode = .ok ⟨f, b⟩) ∨
      (InstrWord.wf ⟨f, b⟩ = false ∧ (decode ⟨f, b⟩).toBool = false) := by
  cases f <;> revert b <;> decide

theorem encode_of_decode {w : InstrWord} {i : Instr} (h : decode w = .ok i) : encode i = w := by
  rcases decode_bits w.fmt w.bits with ⟨_, hw⟩ | ⟨_, hw⟩
  · rw [h] at hw
    exact Except.ok.inj hw
  · rw [h] at hw
    cases hw

theorem wf_iff_decodes (w : InstrWord) : w.wf = true ↔ ∃ i, decode w = .ok i := by
  constructor
  · intro hwf
    rcases decode_bits w.fmt w.bits with ⟨_, hw⟩ | ⟨hno, _⟩
    · cases hd : decode w with
      | ok i => exact ⟨i, rfl⟩
      | error e => rw [hd] at hw; cases hw
    · exact absurd hwf (by rw [hno]; decide)
  · rintro ⟨i, hi⟩
    obtain ⟨_, hwf, _⟩ := encodeDecode_statement i
    rwa [encode_of_decode hi] at hwf

/-! ## Script words (R76): `rst ++ cmd ++ key_in ++ din` -/

theorem ofWord_word (a : Input) : Input.ofWord a.word = a := by
  obtain ⟨rst, cmd, key, din⟩ := a
  simp only [Input.word, Input.ofWord, Input.mk.injEq]
  refine ⟨?rst, ?cmd, ?key, ?din⟩
  case rst => rw [BitVec.getLsbD_append]; simp
  case cmd =>
    rw [BitVec.extractLsb'_append_eq_of_add_le (by decide)]
    exact BitVec.extractLsb'_append_eq_left
  case key =>
    rw [BitVec.extractLsb'_append_eq_of_add_le (by decide), BitVec.extractLsb'_append_eq_of_add_le (by decide)]
    exact BitVec.extractLsb'_append_eq_left
  case din =>
    rw [BitVec.extractLsb'_append_eq_of_add_le (by decide), BitVec.extractLsb'_append_eq_of_add_le (by decide)]
    exact BitVec.extractLsb'_append_eq_right

theorem ofBool_getLsbD {n : Nat} (x : BitVec n) (i : Nat) : BitVec.ofBool (x.getLsbD i) = x.extractLsb' i 1 := by
  refine BitVec.eq_of_getLsbD_eq fun j hj => ?_
  have hj0 : j = 0 := by omega
  simp [hj0]

/-- The four fields of a 99-bit word lie side by side. -/
theorem word_ofWord (w : BitVec 99) : (Input.ofWord w).word = w := by
  simp only [Input.word, Input.ofWord, ofBool_getLsbD]
  rw [BitVec.extractLsb'_append_extractLsb'_eq_extractLsb' (by rfl),
    BitVec.extractLsb'_append_extractLsb'_eq_extractLsb' (by rfl),
    BitVec.extractLsb'_append_extractLsb'_eq_extractLsb' (by rfl)]
  exact BitVec.extractLsb'_eq_self

/-- The line that input port values present has those values, where the ignored ports are zero. -/
theorem input_ofInput {a : Input} (h : a.canonical = true) : (Line.ofInput a).input = a := by
  obtain ⟨rst, cmd, key, din⟩ := a
  have hcmd : cmd = 0 ∨ cmd = 1 ∨ cmd = 2 ∨ cmd = 3 := Machine.bv2_cases cmd
  cases rst with
  | true => simp_all [Input.canonical, Line.ofInput, Line.input]
  | false => rcases hcmd with rfl | rfl | rfl | rfl <;> simp_all [Input.canonical, Line.ofInput, Line.input, decodeCmd]

theorem ofInput_input (l : Line) : Line.ofInput l.input = l := by
  cases l <;> rfl

theorem input_canonical (l : Line) : l.input.canonical = true := by
  cases l <;> simp [Line.input, Input.canonical]

theorem lineOfWord_word (l : Line) : Line.ofWord l.word = l := by
  rw [Line.ofWord, Line.word, ofWord_word, ofInput_input]

/-! ## The obligations -/

/-- Settles O14: the decoder's value at each of the words. -/
theorem wordsReadAsTheTablesSay : Obligations.WordsReadAsTheTablesSay := by
  unfold Obligations.WordsReadAsTheTablesSay
  decide

/-- Settles O15: the round trip of each row, and of each word the decoder reads. -/
theorem instructionWordsRoundTrip : Obligations.InstructionWordsRoundTrip := by
  refine ⟨fun i => ?_, fun _ _ => encode_of_decode, wf_iff_decodes⟩
  obtain ⟨hfmt, hwf, hdec⟩ := encodeDecode_statement i
  exact ⟨instr_wf i, hwf, hfmt, hdec⟩

/-- Settles O16: the two inverse laws of input words, and those of lines on canonical inputs. -/
theorem scriptWordsRoundTrip : Obligations.ScriptWordsRoundTrip := by
  refine ⟨fun l => ⟨lineOfWord_word l, input_canonical l⟩, ofWord_word, word_ofWord, fun w hw => ?_⟩
  rw [Line.word, Line.ofWord, input_ofInput hw, word_ofWord]

end Sys2Proof
end

section
/-! PROOFS. The cipher's functions and the tables (00_scope.md R8, 41_sbox_pbox.md R110 to R114, 42_f_function.md R130,
R131, 43_feistel_round.md R140 to R145): nibbles, scattered bits, addition, the rounds, and the well-formed tables as pairs of
bijections; the obligations about them. -/

namespace Sys2Proof.Machine

/-! ## SUB (R110, R111) -/

theorem nib_sub (t : Tables) (x : Half) (i : Fin 4) : nib (sub t x) i = sboxRead t (nib x i) := by
  match i with
  | 0 => exact BitVec.extractLsb'_append_eq_right
  | 1 => exact (BitVec.extractLsb'_append_eq_of_le (by decide)).trans BitVec.extractLsb'_append_eq_right
  | 2 =>
    exact (BitVec.extractLsb'_append_eq_of_le (by decide)).trans
      ((BitVec.extractLsb'_append_eq_of_le (by decide)).trans BitVec.extractLsb'_append_eq_right)
  | 3 =>
    exact (BitVec.extractLsb'_append_eq_of_le (by decide)).trans
      ((BitVec.extractLsb'_append_eq_of_le (by decide)).trans BitVec.extractLsb'_append_eq_left)

/-- A half is its four nibbles. -/
theorem half_eq_of_nib {x y : Half} (h : ∀ i, nib x i = nib y i) : x = y := by
  refine half_ext x y fun b => ?_
  have hbit : ∀ z : Half, z.getLsbD b.val = (nib z ⟨b.val / 4, by omega⟩).getLsbD (b.val % 4) := fun z => by
    simp [nib, Nat.mod_lt, Nat.div_add_mod]
  rw [hbit, hbit, h]

/-- `SUB` is injective nibble by nibble; on the finitely many halves injective is bijective. -/
theorem sub_bijective {t : Tables} (h : t.SboxWf) : Function.Bijective (sub t) := by
  refine Finite.injective_iff_bijective.mp fun x y hxy => half_eq_of_nib fun i => ?_
  refine (sboxRead_bijective t h).injective ?_
  rw [← nib_sub, hxy, nib_sub]

/-! ## PERM (R114) -/

/-- The loop sets the same bits in every order. -/
theorem foldl_permStep_order (t : Tables) (y : Half) {order : List (Fin 16)} (h : order.Perm (List.finRange 16)) :
    order.foldl (permStep t y) 0x0000#16 = perm t y := by
  refine half_ext _ _ fun j => Bool.eq_iff_iff.mpr ?_
  rw [foldl_permStep, getLsbD_perm_iff]
  simp [h.mem_iff]

/-- The 1 bits of `PERM(y)` are those of `y`, counted along the targets. -/
theorem countP_perm {t : Tables} (h : t.PboxWf) (y : Half) :
    (List.finRange 16).countP (fun j => (perm t y).getLsbD j.val) =
      (List.finRange 16).countP fun i => y.getLsbD i.val := by
  have htargets := Equiv.Perm.map_finRange_perm (Equiv.ofBijective (pbox0 t) (pbox0_bijective t h))
  rw [← htargets.countP_eq, List.countP_map]
  exact congrArg (List.countP · _) (funext fun i => getLsbD_perm_pbox0 h y i)

theorem perm_zero (t : Tables) : perm t 0x0000#16 = 0x0000#16 := by
  refine half_ext _ _ fun j => Bool.eq_iff_iff.mpr ?_
  rw [getLsbD_perm_iff]
  simp

theorem perm_allOnes {t : Tables} (h : t.PboxWf) : perm t 0xFFFF#16 = 0xFFFF#16 := by
  have hones : ∀ i : Fin 16, (0xFFFF#16).getLsbD i.val = true := by decide
  refine half_ext _ _ fun j => ?_
  rw [getLsbD_perm_pinv h, hones, hones]

/-! ## MIX (R130) -/

theorem toNat_mix (p k : Half) : (mix p k).toNat = (p.toNat + k.toNat) % 65536 := BitVec.toNat_add p k

/-- A sum is the XOR exactly when no bit receives a carry. -/
theorem mix_eq_xor_iff_carry (p k : Half) : mix p k = p ^^^ k ↔ ∀ i < 16, BitVec.carry i p k false = false := by
  have hbit : ∀ i < 16, ((mix p k).getLsbD i = (p ^^^ k).getLsbD i ↔ BitVec.carry i p k false = false) := fun i hi => by
    rw [mix, BitVec.getLsbD_add hi, BitVec.getLsbD_xor]
    cases p.getLsbD i <;> cases k.getLsbD i <;> simp
  constructor
  · exact fun h i hi => (hbit i hi).1 (by rw [h])
  · exact fun h => BitVec.eq_of_getLsbD_eq fun i hi => (hbit i hi).2 (h i hi)

/-- A carry starts where a bit is 1 in both operands, and it goes to the bit above. -/
theorem carry_eq_false_iff {w : Nat} (p k : BitVec w) (n : Nat) :
    (∀ i < n + 1, BitVec.carry i p k false = false) ↔ ∀ i < n, ¬(p.getLsbD i = true ∧ k.getLsbD i = true) := by
  constructor
  · rintro h i hi ⟨hp, hk⟩
    have hcarry := h (i + 1) (by omega)
    simp [BitVec.carry_succ, hp, hk] at hcarry
  · intro h i hi
    induction i with
    | zero => exact BitVec.carry_zero
    | succ i ih =>
      have hboth := h i (by omega)
      rw [BitVec.carry_succ, ih (by omega)]
      simpa using hboth

/-- When MIX differs from XOR (log 17): a carry out of bit 15 is lost, so bit 15 does not count. -/
theorem mix_ne_xor_iff (p k : Half) :
    mix p k ≠ p ^^^ k ↔ ∃ i : Fin 15, p.getLsbD i.val = true ∧ k.getLsbD i.val = true := by
  rw [Ne, mix_eq_xor_iff_carry, carry_eq_false_iff p k 15]
  constructor
  · intro h
    by_contra hno
    exact h fun i hi hboth => hno ⟨⟨i, hi⟩, hboth⟩
  · rintro ⟨i, hboth⟩ h
    exact h i.val i.isLt hboth

/-! ## F (R131) -/

theorem fFunction_eq (t : Tables) (x k : Half) : fFunction t x k = mix (perm t (sub t x)) k := rfl

theorem fFunction_zero (t : Tables) (x : Half) : fFunction t x 0x0000#16 = perm t (sub t x) :=
  BitVec.add_zero _

theorem mix_bijective_left (k : Half) : Function.Bijective fun p => mix p k := (Equiv.addRight k).bijective

theorem mix_bijective_right (p : Half) : Function.Bijective fun k => mix p k := (Equiv.addLeft p).bijective

theorem fFunction_bijective_left {t : Tables} (h : t.Wf) (k : Half) : Function.Bijective fun x => fFunction t x k :=
  (mix_bijective_left k).comp ((perm_bijective h.2).comp (sub_bijective h.1))

/-! ## Split, join and rounds (R140 to R145) -/

theorem toNat_splitBlock (b : Block) :
    (splitBlock b).1.toNat = b.toNat / 2 ^ 16 ∧ (splitBlock b).2.toNat = b.toNat % 2 ^ 16 := by
  have hlt := b.isLt
  constructor
  · rw [splitBlock, BitVec.extractLsb'_toNat, Nat.shiftRight_eq_div_pow, Nat.mod_eq_of_lt (by omega)]
  · rw [splitBlock, BitVec.extractLsb'_toNat, Nat.shiftRight_zero]

theorem toNat_joinBlock (l r : Half) : (joinBlock (l, r)).toNat = l.toNat * 2 ^ 16 + r.toNat := by
  rw [joinBlock, BitVec.toNat_append, ← Nat.shiftLeft_add_eq_or_of_lt r.isLt, Nat.shiftLeft_eq]

theorem encRound_of_fFunction_zero {t : Tables} {l r k : Half} (h : fFunction t r k = 0x0000#16) :
    encRound t (l, r) k = (r, l) := by
  simp [encRound, h]

/-- The last pair of R145, joined, is the decryption. -/
theorem joinBlock_decPair (t : Tables) (rk : RoundKeys) (c : Block) :
    joinBlock (decPair t rk c 4) = decryptBlock t rk c := rfl

/-! ## Well-formed tables are pairs of bijections (00_scope.md R8) -/

/-- A value that a bijection's table holds occurs in it once. -/
theorem count_ofFn_eq_one {α : Type} [DecidableEq α] {n : Nat} {f : Fin n → α} (hf : Function.Injective f) (i : Fin n) :
    (Vector.ofFn f).toList.count (f i) = 1 := by
  rw [Vector.toList_ofFn]
  exact List.count_eq_one_of_mem (List.nodup_ofFn.mpr hf) (List.mem_ofFn.mpr ⟨i, rfl⟩)

theorem tablesOf_sboxWf (s p : Equiv.Perm (Fin 16)) : (Config.tablesOf s p).SboxWf := by
  intro v
  have hinj : Function.Injective fun n => BitVec.ofFin (w := 4) (s n) := fun a b hab =>
    s.injective (congrArg BitVec.toFin hab)
  have hcount := count_ofFn_eq_one hinj (s.symm v)
  rw [Equiv.apply_symm_apply] at hcount
  exact hcount

/-- The stored form tells the positions apart (R113). -/
theorem storedForm_injective : Function.Injective fun v : Fin 16 => BitVec.ofNat 5 (v.val + 1) := by
  decide

theorem tablesOf_pboxWf (s p : Equiv.Perm (Fin 16)) : (Config.tablesOf s p).PboxWf := by
  intro v
  have hcount := count_ofFn_eq_one (storedForm_injective.comp p.injective) (p.symm v)
  rw [Function.comp_apply, Equiv.apply_symm_apply] at hcount
  exact hcount

/-- On a well-formed table the stored form is the 0-indexed target and one (R113). -/
theorem pbox1_eq_pbox0_succ {t : Tables} (h : t.PboxWf) (i : Fin 16) :
    t.pbox1[i] = BitVec.ofNat 5 ((pbox0 t i).val + 1) := by
  obtain ⟨k, hk⟩ := pbox1_hits t h (pbox0 t i)
  have hki : k = i := (pbox0_bijective t h).injective (pbox0_of_pbox1 t k _ hk)
  rwa [hki] at hk

/-- The read of a well-formed S-box, on table indices. -/
theorem sboxRead_toFin_bijective {t : Tables} (h : t.SboxWf) :
    Function.Bijective fun n : Fin 16 => (sboxRead t (BitVec.ofFin n)).toFin := by
  refine Finite.injective_iff_bijective.mp fun a b hab => ?_
  have hread := (sboxRead_bijective t h).injective (BitVec.eq_of_toFin_eq hab)
  exact congrArg BitVec.toFin hread

theorem eq_tablesOf {t : Tables} {s p : Equiv.Perm (Fin 16)} (hs : ∀ i : Fin 16, t.sbox[i] = BitVec.ofFin (s i))
    (hp : ∀ i : Fin 16, t.pbox1[i] = BitVec.ofNat 5 ((p i).val + 1)) : t = Config.tablesOf s p := by
  obtain ⟨sbox, pbox1⟩ := t
  rw [Config.tablesOf, Tables.mk.injEq]
  constructor
  · exact Vector.ext fun i hi => by rw [Vector.getElem_ofFn]; exact hs ⟨i, hi⟩
  · exact Vector.ext fun i hi => by rw [Vector.getElem_ofFn]; exact hp ⟨i, hi⟩

theorem exists_tablesOf {t : Tables} (h : t.Wf) : ∃ s p : Equiv.Perm (Fin 16), t = Config.tablesOf s p :=
  ⟨Equiv.ofBijective _ (sboxRead_toFin_bijective h.1), Equiv.ofBijective _ (pbox0_bijective t h.2),
    eq_tablesOf (fun _ => rfl) (pbox1_eq_pbox0_succ h.2)⟩

theorem tables_wf_iff (t : Tables) : t.Wf ↔ ∃ s p : Equiv.Perm (Fin 16), t = Config.tablesOf s p := by
  constructor
  · exact exists_tablesOf
  · rintro ⟨s, p, rfl⟩
    exact ⟨tablesOf_sboxWf s p, tablesOf_pboxWf s p⟩

theorem toNat_pbox1 {t : Tables} (h : t.PboxWf) (i : Fin 16) : (pbox0 t i).val + 1 = (t.pbox1[i]).toNat := by
  rw [pbox1_eq_pbox0_succ h i, BitVec.toNat_ofNat, Nat.mod_eq_of_lt (by omega)]

/-! ## The obligations -/

/-- Settles O4: the nibbles of `SUB`, and its bijectivity. -/
theorem substitutionActsOnEachNibble : Obligations.SubstitutionActsOnEachNibble := by
  refine fun t => ⟨nib_sub t, fun i => ?_, sub_bijective⟩
  have hzero : nib 0x0000#16 i = 0x0#4 := by revert i; decide
  rw [nib_sub, hzero]

/-- Settles O5: the scattered bits, whose set does not depend on the order of the loop. -/
theorem permutationScattersBits : Obligations.PermutationScattersBits := fun t =>
  ⟨getLsbD_perm_iff t, fun y _ => foldl_permStep_order t y,
    fun h => ⟨getLsbD_perm_pbox0 h, countP_perm h, perm_zero t, perm_allOnes h⟩⟩

/-- Settles O7: addition of bit vectors, and where its carries start. -/
theorem mixAddsModulo65536 : Obligations.MixAddsModulo65536 := by
  refine ⟨toNat_mix, fun p k => BitVec.add_comm p k, fun p => ⟨BitVec.add_zero p, ?_⟩, mix_bijective_left, by decide,
    by decide, by decide, mix_ne_xor_iff⟩
  rw [mix, BitVec.sub_eq_add_neg]
  rfl

/-- Settles O8: the three stages, each a bijection. -/
theorem roundFunctionStages : Obligations.RoundFunctionStages := by
  refine fun t => ⟨fFunction_eq t, fFunction_zero t, fun x k => ?_, fFunction_bijective_left,
    fun x => mix_bijective_right _⟩
  rw [fFunction_zero, fFunction_eq, mix]

/-- Settles O9: split and join as numbers, and the rounds as pairs. -/
theorem feistelRoundForms : Obligations.FeistelRoundForms :=
  ⟨toNat_splitBlock, toNat_joinBlock, fun _ _ _ _ => rfl, fun _ _ _ _ => rfl,
    fun _ _ _ _ => encRound_of_fFunction_zero⟩

/-- Settles O11: the four rounds written out, and the pairs at index 4. -/
theorem fourRoundsEachWay : Obligations.FourRoundsEachWay := fun t rk b =>
  ⟨rfl, rfl, (joinBlock_encPair t rk b).symm, (joinBlock_decPair t rk b).symm⟩

/-- Settles O13: the well-formed tables are those of two bijections, the hardware's among them. -/
theorem configurationIsAnyWellFormedPair : Obligations.ConfigurationIsAnyWellFormedPair :=
  ⟨(tables_wf_iff _).2 ⟨_, _, rfl⟩, tables_wf_iff, fun _ h => if_pos h, fun _ h => if_neg h,
    fun _ h => toNat_pbox1 h.2⟩

end Sys2Proof.Machine
end

section
/-! PROOFS. What a step without a reset does in an idle controller, split by acceptance: the form of `step_cases` that the
proofs about registers, invariants and runs go through. -/

namespace Sys2Proof.Machine

/-- Presenting a command that is not accepted does not look at its acceptance. -/
theorem present_of_not_accepts {c : Cmd} {s : State} (h : accepts c s = false) (f : State → State) :
    present c f s = present c id s := by
  unfold present
  cases raised c s <;> simp [h]

/-- An accepted command is taken whatever else could be done. -/
theorem present_of_accepts {c : Cmd} {s : State} (h : accepts c s = true) (f : State → State) : present c f s = f s := by
  simp [present, raised_of_accepts c s h, h]

theorem accepts_busy {c : Cmd} {s : State} (h : s.phase ≠ .idle) : accepts c s = false := by
  simp [accepts, h]

/-- What holds before a presented command is met, after its fault, and after its acceptance, holds after it is presented. -/
theorem present_induction {P : State → Prop} {c : Cmd} {f : State → State} {s : State} (hs : P s)
    (hfault : ∀ v, P (raiseFault v s)) (hacc : accepts c s = true → P (f s)) : P (present c f s) := by
  rcases present_cases c f s with ⟨v, _, h⟩ | ⟨_, ha, h⟩ | ⟨_, _, h⟩
  · rw [h]; exact hfault v
  · rw [h]; exact hacc ha
  · rw [h]; exact hs

/-- All that a step that answers a next state can have done, with an idle step split by acceptance: without one, presenting
the command can only have raised its fault. -/
theorem step_outcomes {s t : State} (h : step s = .next t) :
    (s.input.rst = true ∧ t = (hostReset s).advance) ∨
    (s.input.rst = false ∧ s.phase = .idle ∧ s.rnd = 0 ∧ accepts s.command s = true ∧
      t = (acceptOf s.command s s).advance) ∨
    (s.input.rst = false ∧ s.phase = .idle ∧ s.rnd = 0 ∧ accepts s.command s = false ∧
      t = (present s.command id s).advance) ∨
    (s.input.rst = false ∧ s.phase ≠ .idle ∧ accepts s.command s = false ∧
      t = (microOf s.phase s.rnd.toFin (present s.command id s)).advance) := by
  rcases step_cases s t h with hreset | ⟨hr, hp, h0, rfl⟩ | ⟨hr, hp, rfl⟩
  · exact .inl hreset
  · cases ha : accepts s.command s with
    | true => exact .inr (.inl ⟨hr, hp, h0, rfl, by rw [present_of_accepts ha]⟩)
    | false => exact .inr (.inr (.inl ⟨hr, hp, h0, rfl, by rw [present_of_not_accepts ha]⟩))
  · exact .inr (.inr (.inr ⟨hr, hp, accepts_busy hp, rfl⟩))

end Sys2Proof.Machine
end

section
/-! PROOFS. The invariant (10_state.md R34): each operation a step is made of keeps it, so every step does, and every
reachable state meets it; and the obligations about it. -/

namespace Sys2Proof.Machine

/-! ## The operations keep the invariant -/

/-- The invariant from its conditions, written out. -/
theorem inv_of_conditions {s : State} (idleRnd : s.phase = .idle → s.rnd = 0)
    (ksFlags : s.phase = .ks → s.kvalid = false ∧ s.done = false)
    (roundFlags : s.phase = .enc ∨ s.phase = .dec → s.kvalid = true ∧ s.done = false) (cause : s.CauseMatches)
    (keys : s.kvalid = true → ∀ i : Fin 4, s.rk.get i = ksrk s.key i) (doneIdle : s.done = true → s.phase = .idle)
    (loading : s.phase = .ks → ∀ j : Fin 4, j.val < s.rnd.toNat → s.rk.get j = ksrk s.key j)
    (held : s.done = true → s.doutHeld = true) : s.Inv :=
  ⟨⟨idleRnd, ksFlags, roundFlags, cause, keys, doneIdle⟩, loading, held⟩

theorem afterReset_inv (n : Nat) (script : List Input) : (State.afterReset n script).Inv := by
  apply inv_of_conditions
  case cause => exact ⟨fun _ => rfl, nofun⟩
  all_goals simp

theorem raiseFault_inv {s : State} (h : s.Inv) (v : Violation) : (raiseFault v s).Inv := by
  obtain ⟨⟨ha, hb, hc, _, he, hf⟩, hg, hh⟩ := h
  have hd : (raiseFault v s).CauseMatches := ⟨nofun, fun _ => by cases v; exacts [.inl rfl, .inr rfl]⟩
  exact ⟨⟨ha, hb, hc, hd, he, hf⟩, hg, hh⟩

theorem acceptKey_inv {s : State} (h : s.Inv) (k : Key) : (acceptKey k s).Inv := by
  obtain ⟨⟨_, _, _, hd, _, _⟩, _, _⟩ := h
  apply inv_of_conditions
  case cause => exact hd
  all_goals simp

theorem acceptBlock_inv {s : State} (h : s.Inv) (hk : s.kvalid = true) {p : Phase} (hp : p = .enc ∨ p = .dec)
    (lr : Half × Half) : (acceptBlock p lr s).Inv := by
  obtain ⟨⟨_, _, _, hd, he, _⟩, _, _⟩ := h
  have hne : p ≠ .ks := by rcases hp with rfl | rfl <;> decide
  apply inv_of_conditions
  case cause => exact hd
  case keys => exact he
  all_goals simp [hne, hk]

theorem acceptOf_inv {s : State} (h : s.Inv) {c : Cmd} (ha : accepts c s = true) : (acceptOf c s s).Inv := by
  obtain ⟨_, _, _, hk⟩ := (accepts_iff c s).1 ha
  cases c with
  | nop => exact h
  | loadkey => exact acceptKey_inv h s.keyOperand
  | encrypt => exact acceptBlock_inv h (hk rfl) (.inl rfl) s.blockOperand
  | decrypt => exact acceptBlock_inv h (hk rfl) (.inr rfl) s.blockOperand

/-- KS micro-step `i` adds round key `i` to those that belong to `KEY`; the last one makes them all valid. -/
theorem ksMicroStep_keys {s : State} {i : Fin 4} (h : ∀ j : Fin 4, j < i → s.rk.get j = ksrk s.key j) (j : Fin 4)
    (hj : j ≤ i) : (ksMicroStep i s).rk.get j = ksrk s.key j := by
  rw [ksMicroStep_rk]
  by_cases hji : j = i
  · rw [hji, get_set_same]
  · rw [get_set_other _ _ _ _ hji, h j (lt_of_le_of_ne hj hji)]

theorem toNat_succ_of_lt {i : Fin 4} (h : i.val < 3) : (BitVec.ofFin i + 1 : BitVec 2).toNat = i.val + 1 := by
  revert i; decide

theorem ksMicroStep_inv {s : State} (h : s.Inv) (hp : s.phase = .ks) : (ksMicroStep s.rnd.toFin s).Inv := by
  obtain ⟨⟨_, hb, _, hd, _, _⟩, hg, _⟩ := h
  obtain ⟨hkv, hdone⟩ := hb hp
  have hkeys := ksMicroStep_keys (s := s) (i := s.rnd.toFin) (hg hp)
  apply inv_of_conditions
  case cause => simpa [State.CauseMatches] using hd
  case keys =>
    intro hvalid j
    have hlast : ¬s.rnd.toFin.val < 3 := fun hlt => by
      rw [ksMicroStep_kvalid, if_pos hlt, hkv] at hvalid
      cases hvalid
    rw [hkeys j (by omega), ksMicroStep_key]
  case loading =>
    intro hks j hj
    have hlt : s.rnd.toFin.val < 3 := by
      by_contra hlast
      rw [ksMicroStep_phase, if_neg hlast] at hks
      cases hks
    rw [ksMicroStep_rnd, if_pos hlt, toNat_succ_of_lt hlt] at hj
    rw [hkeys j (Nat.le_of_lt_succ hj), ksMicroStep_key]
  all_goals by_cases hlt : s.rnd.toFin.val < 3 <;> simp_all

/-- A round leaves `KEY`, `RK` and `KVALID`; the last one sets `DONE` with `DOUT` written, in phase IDLE. -/
theorem finishRound_inv {s : State} (h : s.Inv) (hp : s.phase = .enc ∨ s.phase = .dec) (i : Fin 4) (lr : Half × Half) :
    (finishRound i lr s).Inv := by
  obtain ⟨⟨_, _, hc, hd, he, _⟩, _, _⟩ := h
  obtain ⟨hkv, hdone⟩ := hc hp
  have hne : s.phase ≠ .idle ∧ s.phase ≠ .ks := by rcases hp with hp | hp <;> simp [hp]
  apply inv_of_conditions
  case cause => simpa [State.CauseMatches] using hd
  case keys => intro _ j; simpa using he hkv j
  all_goals by_cases hlt : i.val < 3 <;> simp [hlt, hne, hkv, hdone]

theorem microOf_inv {s : State} (h : s.Inv) : (microOf s.phase s.rnd.toFin s).Inv := by
  cases hp : s.phase with
  | idle => exact h
  | ks => exact ksMicroStep_inv h hp
  | enc => exact finishRound_inv h (.inl hp) _ _
  | dec => exact finishRound_inv h (.inr hp) _ _

theorem step_inv {s t : State} (h : s.Inv) (hst : step s = .next t) : t.Inv := by
  have hquiet : (present s.command id s).Inv := present_induction h (raiseFault_inv h) fun _ => h
  rcases step_outcomes hst with ⟨_, rfl⟩ | ⟨_, _, _, ha, rfl⟩ | ⟨_, _, _, _, rfl⟩ | ⟨_, _, _, rfl⟩
  · exact afterReset_inv _ _
  · exact acceptOf_inv h ha
  · exact hquiet
  · have hmicro := microOf_inv hquiet
    rwa [present_id_phase, present_id_rnd] at hmicro

/-! ## Reachable states -/

theorem reachable_inv {s : State} (h : Reachable s) : s.Inv := by
  induction h with
  | reset n script => exact afterReset_inv n script
  | step s t _ hst ih => exact step_inv ih hst
  | host s script _ ih => exact ih

/-- Where IDLE has `RND = 0` no micro-step word is illegal, so the machine steps (30_encoding.md R74). -/
theorem step_next_of_idleRndZero {s : State} (h : s.IdleRndZero) : ∃ t, step s = .next t := by
  rcases step_stops s with hnext | ⟨_, hp, h0, _⟩
  · exact hnext
  · exact absurd (h hp) h0

/-! ## The gate (93 U11 to U13) -/

theorem gate_of_wf {s : State} (h : s.Wf) : s.gate = .next s := if_pos h

theorem gate_of_not_wf {s : State} (h : ¬s.Wf) : s.gate = .refused .illFormedState := if_neg h

/-- A well-formed state is of none of the kinds U11 to U13 list. -/
theorem wf_excludes {s : State} (h : s.Wf) :
    ¬((s.phase = .idle ∧ s.rnd ≠ 0) ∨ s.cause = 0b11#2 ∨ (s.cause ≠ 0b00#2 ∧ s.fault = false) ∨
      (s.cause = 0b00#2 ∧ s.fault = true) ∨ (s.kvalid = true ∧ s.rk ≠ keySchedule s.key) ∨
      ((s.phase = .enc ∨ s.phase = .dec) ∧ s.kvalid = false) ∨ (s.done = true ∧ s.phase ≠ .idle)) := by
  obtain ⟨ha, _, hc, ⟨hd0, hd1⟩, he, hf⟩ := h
  rintro (⟨hp, h0⟩ | hcause | ⟨hcause, hfault⟩ | ⟨hcause, hfault⟩ | ⟨hk, hrk⟩ | ⟨hp, hk⟩ | ⟨hdone, hp⟩)
  · exact h0 (ha hp)
  · cases hfault : s.fault with
    | false => exact absurd ((hd0 hfault).symm.trans hcause) (by decide)
    | true => rcases hd1 hfault with hc1 | hc1 <;> exact absurd (hc1.symm.trans hcause) (by decide)
  · exact hcause (hd0 hfault)
  · rcases hd1 hfault with hc1 | hc1 <;> exact absurd (hc1.symm.trans hcause) (by decide)
  · exact hrk (rk_eq_keySchedule he hk)
  · exact absurd ((hc hp).1.symm.trans hk) (by decide)
  · exact hp (hf hdone)

/-! ## The obligations -/

/-- Settles O40: each operation a step is made of keeps the invariant. -/
theorem invariantIsKeptByEveryStep : Obligations.InvariantIsKeptByEveryStep := fun _ _ => step_inv

/-- Settles O41: the control registers of the state after reset meet it, and it asks nothing of the others there. -/
theorem invariantHoldsAfterReset : Obligations.InvariantHoldsAfterReset := ⟨afterReset_inv 0 [], afterReset_inv⟩

/-- Settles O42: the invariant along every run from reset, and the stepping rule where IDLE has `RND = 0`. -/
theorem reachableStatesAreWellFormed : Obligations.ReachableStatesAreWellFormed := by
  intro s hs
  obtain ⟨⟨ha, hb, hc, hd, he, hf⟩, _, _⟩ := reachable_inv hs
  exact ⟨ha, hb, hc, hd, he, hf, step_next_of_idleRndZero ha⟩

/-- Settles O53: the fields of the state after reset. -/
theorem resetValues : Obligations.ResetValues :=
  ⟨afterReset_phase 0 [], afterReset_rnd 0 [], afterReset_kvalid 0 [], afterReset_done 0 [], afterReset_fault 0 [],
    afterReset_cause 0 []⟩

/-- Settles O54: the gate tests well-formedness, which each listed kind breaks. -/
theorem gateRefusesIllFormedStates : Obligations.GateRefusesIllFormedStates :=
  ⟨fun _ => gate_of_wf, fun _ => gate_of_not_wf, fun _ hkind => gate_of_not_wf fun hwf => wf_excludes hwf hkind⟩

end Sys2Proof.Machine
end

section
/-! PROOFS. Registers that hold no value (10_state.md R27, R33): states that agree but for them show the same outputs and
step alike, and reset steps lead to such states; the obligations about them. -/

namespace Sys2Proof.Machine

/-! ## What agreeing states have in common -/

theorem State.Agree.inputAt {s t : State} (h : s.Agree t) (k : Nat) : s.inputAt k = t.inputAt k :=
  inputAt_congr s t h.script k

theorem State.Agree.input {s t : State} (h : s.Agree t) : s.input = t.input := h.inputAt 0

theorem State.Agree.command {s t : State} (h : s.Agree t) : s.command = t.command := by
  rw [State.command, State.command, h.input]

theorem State.Agree.raised {s t : State} (h : s.Agree t) (c : Cmd) : raised c s = raised c t := by
  simp only [Machine.raised, h.fault, h.phase, h.kvalid]

theorem State.Agree.accepts {s t : State} (h : s.Agree t) (c : Cmd) : accepts c s = accepts c t := by
  simp only [Machine.accepts, h.fault, h.phase, h.kvalid]

/-- `dout` shows `DOUT` only where it has been written. -/
theorem State.Agree.doutPort {s t : State} (h : s.Agree t) (n : Nat) : s.doutPort n = t.doutPort n := by
  unfold State.doutPort
  rw [← h.doutHeld]
  split
  next hheld => exact h.dout hheld
  next => rfl

theorem State.Agree.outputs {s t : State} (h : s.Agree t) (n : Nat) : s.outputs n = t.outputs n := by
  simp only [State.outputs, State.busy, h.doutPort n, h.phase, h.done, h.kvalid, h.fault, h.cause]

/-! ## The operations keep agreement -/

/-- Two states after reset steps agree, whatever their free values are (R33). -/
theorem afterReset_agree (m n : Nat) (script : List Input) :
    (State.afterReset m script).Agree (State.afterReset n script) := by
  constructor
  case key => exact nofun
  case rk => rintro i (h | h | h | ⟨h, _⟩) <;> cases h
  case halves => rintro (h | h) <;> cases h
  case dout => exact nofun
  all_goals rfl

theorem State.Agree.advance {s t : State} (h : s.Agree t) : s.advance.Agree t.advance :=
  { h with script := by simp [h.script] }

theorem State.Agree.raiseFault {s t : State} (h : s.Agree t) (v : Violation) :
    (raiseFault v s).Agree (raiseFault v t) :=
  { h with fault := rfl, cause := rfl }

theorem State.Agree.acceptKey {s t : State} (h : s.Agree t) (k : Key) : (acceptKey k s).Agree (acceptKey k t) :=
  { h with
    phase := rfl, rnd := rfl, kvalid := rfl, done := rfl, key := fun _ => rfl
    rk := by rintro i (h | h | h | ⟨_, h⟩) <;> cases h
    halves := by rintro (h | h) <;> cases h }

/-- With a valid key every round key is live already. -/
theorem State.Agree.acceptBlock {s t : State} (h : s.Agree t) (hk : s.kvalid = true) {p : Phase} (hp : p ≠ .ks)
    (lr : Half × Half) : (acceptBlock p lr s).Agree (acceptBlock p lr t) :=
  { h with
    phase := rfl, rnd := rfl, done := rfl, key := fun hks => absurd hks hp
    rk := fun i _ => h.rk i (.inl hk)
    halves := fun _ => ⟨rfl, rfl⟩ }

theorem State.Agree.acceptOf {s t : State} (h : s.Agree t) {c : Cmd} (ha : Machine.accepts c s = true) :
    (acceptOf c s s).Agree (acceptOf c t t) := by
  obtain ⟨_, _, _, hk⟩ := (accepts_iff c s).1 ha
  cases c with
  | nop => exact h
  | loadkey =>
    simp only [Machine.acceptOf, State.keyOperand, h.input]
    exact h.acceptKey _
  | encrypt =>
    simp only [Machine.acceptOf, State.blockOperand, h.input]
    exact h.acceptBlock (hk rfl) (by decide) _
  | decrypt =>
    simp only [Machine.acceptOf, State.blockOperand, h.input]
    exact h.acceptBlock (hk rfl) (by decide) _

theorem State.Agree.present_id {s t : State} (h : s.Agree t) (c : Cmd) : (present c id s).Agree (present c id t) := by
  unfold present
  rw [← h.raised c, ← h.accepts c]
  cases Machine.raised c s with
  | some v => exact h.raiseFault v
  | none => cases Machine.accepts c s <;> exact h

/-- A micro-step leaves its phase or goes to IDLE. -/
theorem phase_of_ksMicroStep {i : Fin 4} {s : State} {q : Phase} (h : (ksMicroStep i s).phase = q) (hq : q ≠ .idle) :
    s.phase = q := by
  rw [ksMicroStep_phase] at h
  split at h
  · exact h
  · exact absurd h.symm hq

theorem phase_of_finishRound {i : Fin 4} {lr : Half × Half} {s : State} {q : Phase} (h : (finishRound i lr s).phase = q)
    (hq : q ≠ .idle) : s.phase = q := by
  rw [finishRound_phase] at h
  split at h
  · exact h
  · exact absurd h.symm hq

/-- A KS micro-step reads `KEY`, which is live in phase KS, and makes its own round key live. -/
theorem State.Agree.ksMicroStep {s t : State} (h : s.Agree t) (hp : s.phase = .ks) :
    (ksMicroStep s.rnd.toFin s).Agree (ksMicroStep s.rnd.toFin t) := by
  have hkey : s.key = t.key := h.key hp
  have hnot : ∀ q : Phase, q ≠ .idle → q ≠ .ks → (Machine.ksMicroStep s.rnd.toFin s).phase ≠ q :=
    fun q hq hqks he => hqks ((phase_of_ksMicroStep he hq).symm.trans hp)
  have hlive : ∀ j : Fin 4, (Machine.ksMicroStep s.rnd.toFin s).rkLive j → j ≠ s.rnd.toFin → s.rkLive j := by
    intro j hj hne
    have hval : j.val ≠ s.rnd.toNat := fun he => hne (Fin.ext he)
    rcases hj with hkv | he | he | ⟨hks, hlow⟩
    · by_cases hlt : s.rnd.toFin.val < 3
      · rw [ksMicroStep_kvalid, if_pos hlt] at hkv
        exact .inl hkv
      · have hlt' : ¬s.rnd.toNat < 3 := hlt
        exact .inr (.inr (.inr ⟨hp, by omega⟩))
    · exact absurd he (hnot .enc (by decide) (by decide))
    · exact absurd he (hnot .dec (by decide) (by decide))
    · have hlt : s.rnd.toFin.val < 3 := by
        by_contra hlast
        rw [ksMicroStep_phase, if_neg hlast] at hks
        cases hks
      rw [ksMicroStep_rnd, if_pos hlt, toNat_succ_of_lt hlt] at hlow
      have hle : j.val ≤ s.rnd.toNat := Nat.le_of_lt_succ hlow
      exact .inr (.inr (.inr ⟨hp, by omega⟩))
  constructor
  case rk =>
    intro j hj
    rw [ksMicroStep_rk, ksMicroStep_rk]
    by_cases hji : j = s.rnd.toFin
    · rw [hji, get_set_same, get_set_same, hkey]
    · rw [get_set_other _ _ _ _ hji, get_set_other _ _ _ _ hji, h.rk j (hlive j hj hji)]
  case key => simp [hkey]
  case halves =>
    rintro (he | he)
    · exact absurd he (hnot .enc (by decide) (by decide))
    · exact absurd he (hnot .dec (by decide) (by decide))
  case dout => simpa using h.dout
  all_goals simp [h.phase, h.rnd, h.kvalid, h.done, h.fault, h.cause, h.doutHeld, h.script]

/-- In phases ENC and DEC the halves and all round keys are live, and stay so. -/
theorem State.Agree.finishRound {s t : State} (h : s.Agree t) (hp : s.phase = .enc ∨ s.phase = .dec) (i : Fin 4)
    (lr : Half × Half) : (finishRound i lr s).Agree (finishRound i lr t) := by
  have hrk : ∀ j : Fin 4, s.rk.get j = t.rk.get j := fun j =>
    h.rk j (hp.elim (fun he => .inr (.inl he)) fun hd => .inr (.inr (.inl hd)))
  constructor
  case rk => intro j _; simp [hrk j]
  case key =>
    intro hks
    have hold : s.phase = .ks := phase_of_finishRound hks (by decide)
    rcases hp with hp | hp <;> cases hp.symm.trans hold
  case dout =>
    by_cases hlt : i.val < 3
    · simpa [hlt] using h.dout
    · simp [hlt]
  all_goals simp [h.phase, h.kvalid, h.done, h.fault, h.cause, h.doutHeld, h.script]

theorem State.Agree.microOf {s t : State} (h : s.Agree t) :
    (microOf s.phase s.rnd.toFin s).Agree (microOf t.phase t.rnd.toFin t) := by
  rw [← h.phase, ← h.rnd]
  cases hp : s.phase with
  | idle => exact h
  | ks => exact h.ksMicroStep hp
  | enc =>
    obtain ⟨hl, hr⟩ := h.halves (.inl hp)
    simp only [Machine.microOf, encMicroStep, ← hl, ← hr, ← h.rk s.rnd.toFin (.inr (.inl hp))]
    exact h.finishRound (.inl hp) _ _
  | dec =>
    obtain ⟨hl, hr⟩ := h.halves (.inr hp)
    simp only [Machine.microOf, decMicroStep, ← hl, ← hr, ← h.rk (3 - s.rnd.toFin) (.inr (.inr (.inl hp)))]
    exact h.finishRound (.inr hp) _ _

/-- Agreeing states step alike: to agreeing states, or both to the refusal of R74. -/
theorem State.Agree.step {s t : State} (h : s.Agree t) :
    (∃ s' t', step s = .next s' ∧ step t = .next t' ∧ s'.Agree t') ∨
      (step s = .refused .illegalUstep ∧ step t = .refused .illegalUstep) := by
  cases hr : s.input.rst with
  | true =>
    refine .inl ⟨_, _, step_reset s hr, step_reset t (h.input ▸ hr), ?_⟩
    rw [hostReset_eq, hostReset_eq, h.script]
    exact (afterReset_agree _ _ _).advance
  | false =>
    have hrt : t.input.rst = false := h.input ▸ hr
    by_cases hp : s.phase = .idle
    · have hpt : t.phase = .idle := h.phase ▸ hp
      by_cases h0 : s.rnd = 0
      · refine .inl ⟨_, _, step_idle s hr hp h0, step_idle t hrt hpt (h.rnd ▸ h0), State.Agree.advance ?_⟩
        rw [← h.command]
        cases ha : Machine.accepts s.command s with
        | true =>
          rw [present_of_accepts ha, present_of_accepts (s := t) (h.accepts _ ▸ ha)]
          exact h.acceptOf ha
        | false =>
          rw [present_of_not_accepts ha, present_of_not_accepts (s := t) (h.accepts _ ▸ ha)]
          exact h.present_id _
      · exact .inr ⟨step_illegal s hr hp h0, step_illegal t hrt hpt (h.rnd ▸ h0)⟩
    · refine .inl ⟨_, _, step_busy s hr hp, step_busy t hrt (h.phase ▸ hp), State.Agree.advance ?_⟩
      have hmicro := (h.present_id s.command).microOf
      simpa only [present_id_phase, present_id_rnd, h.command] using hmicro

/-! ## Reset steps (70_reset_and_hazards.md R220) -/

theorem step_of_reset {s t : State} (hr : s.input.rst = true) (h : step s = .next t) :
    t = State.afterReset (s.resets + 1) s.script.tail := by
  rw [step_reset s hr] at h
  cases h
  rfl

/-- After one or several reset steps in a row the state is the one after a reset step. -/
theorem run_of_resets (n : Nat) (s u : State) (hr : ∀ k < n + 1, (s.inputAt k).rst = true)
    (h : runFor (n + 1) s = .next u) : ∃ m script, u = State.afterReset m script := by
  obtain ⟨v, hv, hrun⟩ := run_succ_next n s u h
  have hvs := step_of_reset (hr 0 (Nat.succ_pos n)) hv
  induction n generalizing s v with
  | zero => cases hrun; exact ⟨_, _, hvs⟩
  | succ n ih =>
    have hrv : ∀ k < n + 1, (v.inputAt k).rst = true := fun k hk => by
      rw [inputAt_step s v k hv]; exact hr (k + 1) (by omega)
    obtain ⟨w, hw, hrun'⟩ := run_succ_next n v u hrun
    exact ih v hrv hrun w hw hrun' (step_of_reset (hrv 0 (Nat.succ_pos n)) hw)

/-! ## The obligations -/

/-- Settles O39: agreeing states have equal outputs and step alike, whatever the free values are. -/
theorem unwrittenRegistersAreUnobservable : Obligations.UnwrittenRegistersAreUnobservable := fun _ _ h =>
  ⟨h.outputs, h.step⟩

/-- Settles O28: a reset step, or several in a row, end in the state after a reset step, and all such states agree. -/
theorem resetStepClearsControl : Obligations.ResetStepClearsControl := by
  refine ⟨fun s hr => ⟨_, step_reset s hr, rfl, rfl, rfl, rfl, rfl, rfl, rfl, rfl⟩, ?_, ?_⟩
  · intro s s' t t' hr hr' h h'
    rw [step_of_reset hr h, step_of_reset hr' h']
    exact afterReset_agree _ _ _
  · intro n s t u hr h hrun
    obtain ⟨m, script, rfl⟩ := run_of_resets n s u hr hrun
    rw [step_of_reset (hr 0 (Nat.succ_pos n)) h]
    exact afterReset_agree _ _ _

end Sys2Proof.Machine
end

section
/-! PROOFS. The instructions' meanings and the words a step runs (30_encoding.md R70 to R74, 44_controller.md R160 to R167),
and the obligations about them. -/

namespace Sys2Proof.Machine

/-! ## Commands by their codes (R70) -/

theorem decodeCmd_eq_nop_iff (w : BitVec 2) : decodeCmd w = .nop ↔ w = 0b00#2 := by
  revert w; decide

theorem decodeCmd_eq_loadkey_iff (w : BitVec 2) : decodeCmd w = .loadkey ↔ w = 0b01#2 := by
  revert w; decide

theorem decodeCmd_eq_encrypt_iff (w : BitVec 2) : decodeCmd w = .encrypt ↔ w = 0b10#2 := by
  revert w; decide

theorem decodeCmd_eq_decrypt_iff (w : BitVec 2) : decodeCmd w = .decrypt ↔ w = 0b11#2 := by
  revert w; decide

theorem needsKey_decodeCmd_iff (w : BitVec 2) : needsKey (decodeCmd w) = true ↔ w = 0b10#2 ∨ w = 0b11#2 := by
  revert w; decide

theorem encodeCmd_decodeCmd (w : BitVec 2) : encodeCmd (decodeCmd w) = w := by
  revert w; decide

/-! ## The fault a command raises (60_exceptions.md R193 to R195) -/

theorem raised_busy {c : Cmd} {s : State} (hf : s.fault = false) (hc : c ≠ .nop) (hp : s.phase ≠ .idle) :
    raised c s = some .busy := by
  simp [raised, hf, hc, hp]

theorem raised_nokey {c : Cmd} {s : State} (hf : s.fault = false) (hp : s.phase = .idle) (hn : needsKey c = true)
    (hk : s.kvalid = false) : raised c s = some .nokey := by
  have hc : c ≠ .nop := by rintro rfl; cases hn
  simp [raised, hf, hc, hp, hn, hk]

/-- Nothing is raised but by a command at a busy controller, or by one at an idle controller that lacks its key. -/
theorem raised_eq_none {c : Cmd} {s : State} (hbusy : s.phase ≠ .idle → c = .nop)
    (hkey : s.phase = .idle → needsKey c = true → s.kvalid = true) : raised c s = none := by
  cases hr : raised c s with
  | none => rfl
  | some v =>
    obtain ⟨_, hc, ⟨_, hp⟩ | ⟨_, hp, hn, hk⟩⟩ := raised_some c s v hr
    · exact absurd (hbusy hp) hc
    · rw [hkey hp hn] at hk; cases hk

/-- A faulted CORE ignores every command (R197). -/
theorem present_of_fault {s : State} (hf : s.fault = true) (c : Cmd) (f : State → State) : present c f s = s := by
  simp [present, raised, accepts, hf]

/-! ## The commands' meanings (R95, R163, R164, R169) -/

theorem exec_command_accepted {c : Cmd} {s : State} (h : accepts c s = true) :
    exec c.instr s = .next (acceptOf c s s) := by
  rw [exec_command, present_of_accepts h]

theorem exec_command_raised {c : Cmd} {s : State} {v : Violation} (h : raised c s = some v) :
    exec c.instr s = .next (raiseFault v s) := by
  rw [exec_command, present_of_raised h]

theorem exec_command_faulted {c : Cmd} {s : State} (h : s.fault = true) : exec c.instr s = .next s := by
  rw [exec_command, present_of_fault h]

/-- IDLE's meaning is that of the command on the port (R169). -/
theorem exec_idle_command (s : State) : exec .idle s = exec s.command.instr s := exec_idle s

/-- A command that is not accepted writes `FAULT` and `CAUSE` only. -/
theorem present_id_frame (c : Cmd) (s : State) :
    present c id s = { s with fault := (present c id s).fault, cause := (present c id s).cause } :=
  present_induction (P := fun t => t = { s with fault := t.fault, cause := t.cause }) rfl (fun _ => rfl) fun _ => rfl

/-- The phase of an acceptance has the command's code (R162). -/
theorem acceptOf_phase_code {c : Cmd} (hc : c ≠ .nop) (s : State) : (acceptOf c s s).phase.code = encodeCmd c := by
  cases c with
  | nop => exact absurd rfl hc
  | loadkey | encrypt | decrypt => rfl

/-- What every acceptance does alike (R162). -/
theorem acceptOf_control {c : Cmd} (hc : c ≠ .nop) (s : State) :
    (acceptOf c s s).done = false ∧ (acceptOf c s s).rnd = 0 := by
  cases c with
  | nop => exact absurd rfl hc
  | loadkey | encrypt | decrypt => exact ⟨rfl, rfl⟩

/-- What no acceptance writes. -/
theorem acceptOf_frame (c : Cmd) (s : State) :
    (acceptOf c s s).fault = s.fault ∧ (acceptOf c s s).cause = s.cause ∧ (acceptOf c s s).rk = s.rk ∧
      (acceptOf c s s).dout = s.dout ∧ (acceptOf c s s).doutHeld = s.doutHeld ∧ (acceptOf c s s).script = s.script := by
  cases c <;> exact ⟨rfl, rfl, rfl, rfl, rfl, rfl⟩

/-- The acceptance condition in the words of R162. -/
theorem accepts_iff_cases {c : Cmd} (hc : c ≠ .nop) (s : State) :
    accepts c s = true ↔ s.phase = .idle ∧ s.fault = false ∧ (c = .encrypt ∨ c = .decrypt → s.kvalid = true) := by
  cases c <;> simp_all [accepts_iff, needsKey]

/-! ## The two words of a step (R70, R73) -/

theorem ustepPhase_append (p : Phase) (r : BitVec 2) : ustepPhase (p.code ++ r) = p := by
  rw [ustepPhase, BitVec.extractLsb'_append_eq_left]
  cases p <;> rfl

theorem ustepRnd_append (p : Phase) (r : BitVec 2) : ustepRnd (p.code ++ r) = r :=
  BitVec.extractLsb'_append_eq_right

theorem fetchUstep_eq_decode (s : State) : fetchUstep s = decode ⟨.ustep, s.phase.code ++ s.rnd⟩ := by
  simp only [decode, ustepPhase_append, ustepRnd_append, fetchUstep]

theorem decode_command (w : BitVec 2) : decode ⟨.cmd, w.setWidth 4⟩ = .ok (decodeCmd w).instr := by
  revert w; decide

theorem runWords_of_fetch_idle {s : State} (h : fetchUstep s = .ok .idle) : runWords s = exec .idle s := by
  simp only [runWords, h]

theorem step_eq_andThen {s : State} (hr : s.input.rst = false) :
    step s = andThen (runWords s) fun t => .next t.advance := by
  simp [step, runStep, hr]

/-! ## The obligations -/

/-- Settles O18: the three things LOADKEY can meet. -/
theorem loadkeyIsTakenOrFaults : Obligations.LoadkeyIsTakenOrFaults := fun _ =>
  ⟨fun hp hf => exec_command_accepted (c := .loadkey) ((accepts_iff_cases (by decide) _).2 ⟨hp, hf, by simp⟩),
    fun hp hf => exec_command_raised (c := .loadkey) (raised_busy hf (by decide) hp),
    exec_command_faulted (c := .loadkey)⟩

/-- Settles O19: the four things ENCRYPT can meet. -/
theorem encryptIsTakenOrFaults : Obligations.EncryptIsTakenOrFaults := fun _ =>
  ⟨fun hp hf hk => exec_command_accepted (c := .encrypt) ((accepts_iff_cases (by decide) _).2 ⟨hp, hf, fun _ => hk⟩),
    fun hp hf hk => exec_command_raised (c := .encrypt) (raised_nokey hf hp rfl hk),
    fun hp hf => exec_command_raised (c := .encrypt) (raised_busy hf (by decide) hp),
    exec_command_faulted (c := .encrypt)⟩

/-- Settles O20: the four things DECRYPT can meet. -/
theorem decryptIsTakenOrFaults : Obligations.DecryptIsTakenOrFaults := fun _ =>
  ⟨fun hp hf hk => exec_command_accepted (c := .decrypt) ((accepts_iff_cases (by decide) _).2 ⟨hp, hf, fun _ => hk⟩),
    fun hp hf hk => exec_command_raised (c := .decrypt) (raised_nokey hf hp rfl hk),
    fun hp hf => exec_command_raised (c := .decrypt) (raised_busy hf (by decide) hp),
    exec_command_faulted (c := .decrypt)⟩

/-- Settles O21: IDLE is the command on the port, so this is what each command can meet in phase IDLE. -/
theorem idleWaitsAndAccepts : Obligations.IdleWaitsAndAccepts := by
  intro s hp
  have hcmd : ∀ w, s.input.cmd = w → s.command = decodeCmd w := fun w hw => by rw [State.command, hw]
  rw [exec_idle_command]
  refine ⟨fun hw => ?_, exec_command_faulted, fun hf hw => ?_, fun hf hk hw => ?_, fun hf hk hw => ?_,
    fun hf hk hw => ?_⟩
  · rw [hcmd _ hw]; rfl
  · rw [hcmd _ hw]; exact (loadkeyIsTakenOrFaults s).1 hp hf
  · rw [hcmd _ hw]; exact (encryptIsTakenOrFaults s).1 hp hf hk
  · rw [hcmd _ hw]; exact (decryptIsTakenOrFaults s).1 hp hf hk
  · exact exec_command_raised (raised_nokey hf hp ((needsKey_decodeCmd_iff _).2 hw) hk)

/-- Settles O22: acceptance by command, and the frame of presenting without one. -/
theorem commandsAreAcceptedExactlyWhen : Obligations.CommandsAreAcceptedExactlyWhen := by
  intro c s hc
  refine ⟨_, exec_command c s, ?_, ?_⟩
  · intro h
    rw [present_of_accepts ((accepts_iff_cases hc s).2 h)]
    obtain ⟨hdone, hrnd⟩ := acceptOf_control hc s
    obtain ⟨hfault, hcause, hrk, hdout, _, hscript⟩ := acceptOf_frame c s
    exact ⟨hdone, acceptOf_phase_code hc s, hrnd, hfault.trans h.2.1, hcause, hrk, hdout, hscript⟩
  · intro h
    rw [← accepts_iff_cases hc s, Bool.not_eq_true] at h
    rw [present_of_not_accepts h]
    exact present_id_frame c s

/-- Settles O23: the writes of the four rows. -/
theorem keyMicroStepsComplete : Obligations.KeyMicroStepsComplete := fun _ => ⟨rfl, rfl, rfl, rfl⟩

/-- Settles O24: the writes of the four rows. -/
theorem encMicroStepsComplete : Obligations.EncMicroStepsComplete := fun _ => ⟨rfl, rfl, rfl, rfl⟩

/-- Settles O25: the writes of the four rows. -/
theorem decMicroStepsComplete : Obligations.DecMicroStepsComplete := fun _ => ⟨rfl, rfl, rfl, rfl⟩

/-- Settles O26: the decoder reads both words back, and the step runs what it reads. -/
theorem stepRunsTheDecodedWords : Obligations.StepRunsTheDecodedWords := by
  refine fun s => ⟨fetchUstep_eq_decode s, decode_command s.input.cmd, fun hr hidle => ?_, fun u hr hu hne => ?_⟩
  · rw [step_eq_andThen hr, runWords_of_fetch_idle hidle]
    exact ⟨rfl, by rw [exec_idle]⟩
  · rw [step_eq_andThen hr, runWords_ok s u hu hne]

/-- Settles O27: the one way in which a step stops. -/
theorem onlyIllegalMicroStepsStop : Obligations.OnlyIllegalMicroStepsStop := by
  refine ⟨step_illegal, fun s h => ?_⟩
  rcases step_stops s with hnext | ⟨hr, hp, h0, _⟩
  · exact hnext
  · exact absurd ⟨hr, hp, h0⟩ h

end Sys2Proof.Machine
end

section
/-! PROOFS. The step as the pseudocode of 44_controller.md R160, and the ports it does not look at (R169,
70_reset_and_hazards.md R227); the obligations about them. -/

namespace Sys2Proof.Machine

/-! ## The pseudocode and the instructions' meanings (R160)

The pseudocode takes the inputs as an argument, so these hold for any line `a`, whatever the state's own script is. -/

/-- The acceptance of a command with the operand ports of the line `a`. -/
def acceptLine (a : Input) : Cmd → State → State
  | .nop => id
  | .loadkey => acceptKey a.keyIn
  | .encrypt => acceptBlock .enc (splitBlock a.din)
  | .decrypt => acceptBlock .dec (splitBlock a.din)

theorem acceptOf_eq_acceptLine (c : Cmd) (s : State) : acceptOf c s = acceptLine s.input c := by
  cases c <;> rfl

theorem specRaised_eq (s : State) (a : Input) : specRaised s a = (raised (decodeCmd a.cmd) s).map Violation.code := by
  simp only [specRaised, raised, decodeCmd_eq_nop_iff, needsKey_decodeCmd_iff]
  cases s.fault with
  | true => simp
  | false =>
    by_cases hc : a.cmd = 0b00#2
    · simp [hc]
    · by_cases hp : s.phase = .idle
      · by_cases hk : (a.cmd = 0b10#2 ∨ a.cmd = 0b11#2) ∧ s.kvalid = false <;> simp [hc, hp, hk, Violation.code]
      · simp [hc, hp, Violation.code]

theorem specAccept_eq {a : Input} (hc : decodeCmd a.cmd ≠ .nop) (s : State) :
    specAccept s a = acceptLine a (decodeCmd a.cmd) s := by
  rcases bv2_cases a.cmd with hw | hw | hw | hw
  · exact absurd (by rw [hw]; rfl) hc
  all_goals rw [specAccept, hw]; rfl

theorem specKs_eq (s : State) : specKs s = ksMicroStep s.rnd.toFin s := by
  have hiff : s.rnd.toFin.val < 3 ↔ s.rnd.toNat < 3 := Iff.rfl
  simp only [specKs, ksMicroStep, hiff]
  split <;> rfl

theorem specRoundEnd_eq (s : State) (l r : Half) : specRoundEnd s l r = finishRound s.rnd.toFin (l, r) s := by
  have hiff : s.rnd.toFin.val < 3 ↔ s.rnd.toNat < 3 := Iff.rfl
  simp only [specRoundEnd, finishRound, hiff]
  split <;> rfl

theorem specEnc_eq (t : Tables) (s : State) : specEnc t s = encMicroStep t s.rnd.toFin s :=
  specRoundEnd_eq s _ _

theorem fin4_rev (i : Fin 4) : Fin.rev i = 3 - i := by
  revert i; decide

theorem specDec_eq (t : Tables) (s : State) : specDec t s = decMicroStep t s.rnd.toFin s := by
  rw [specDec, fin4_rev]
  exact specRoundEnd_eq s _ _

/-- Part 2 of R160 in a busy CORE is the micro-step that is due. -/
theorem specMove_busy {s : State} (hp : s.phase ≠ .idle) (a : Input) :
    specMove Config.tables s a = microOf s.phase s.rnd.toFin s := by
  unfold specMove
  cases h : s.phase with
  | idle => exact absurd h hp
  | ks => exact specKs_eq s
  | enc => exact specEnc_eq Config.tables s
  | dec => exact specDec_eq Config.tables s

/-- In an idle CORE, the command of R160's part 2 is accepted as R162 says. -/
theorem specMove_accepts_iff {s : State} (hp : s.phase = .idle) (a : Input) :
    s.fault = false ∧ specRaised s a = none ∧ a.cmd ≠ 0b00#2 ↔ accepts (decodeCmd a.cmd) s = true := by
  rw [specRaised_eq, Option.map_eq_none_iff, Ne, ← decodeCmd_eq_nop_iff]
  constructor
  · rintro ⟨hf, hr, hc⟩
    refine (accepts_iff _ _).2 ⟨hc, hp, hf, fun hn => ?_⟩
    cases hk : s.kvalid with
    | true => rfl
    | false => rw [raised_nokey hf hp hn hk] at hr; cases hr
  · intro ha
    obtain ⟨hc, _, hf, _⟩ := (accepts_iff _ _).1 ha
    exact ⟨hf, raised_of_accepts _ _ ha, hc⟩

/-- Part 2 of R160 in an idle CORE is acceptance, or nothing. -/
theorem specMove_idle {s : State} (hp : s.phase = .idle) (a : Input) : specMove Config.tables s a =
    if accepts (decodeCmd a.cmd) s = true then acceptLine a (decodeCmd a.cmd) s else s := by
  have hiff := specMove_accepts_iff hp a
  unfold specMove
  rw [hp]
  by_cases ha : accepts (decodeCmd a.cmd) s = true
  · rw [if_pos ha]
    exact (if_pos (hiff.2 ha)).trans (specAccept_eq ((accepts_iff _ _).1 ha).1 s)
  · rw [if_neg ha]
    exact if_neg (mt hiff.1 ha)

/-- Parts 1 and 2 of R160 in an idle CORE are the presented command's meaning. -/
theorem specStep_idle {s : State} {a : Input} (hr : a.rst = false) (hp : s.phase = .idle) :
    specStep Config.tables s a = present (decodeCmd a.cmd) (acceptLine a (decodeCmd a.cmd)) s := by
  simp only [specStep, hr, Bool.false_eq_true, if_false, specRaised_eq, specMove_idle hp, present]
  cases h : raised (decodeCmd a.cmd) s with
  | none => rfl
  | some v =>
    have ha : ¬accepts (decodeCmd a.cmd) s = true := fun ha => by rw [raised_of_accepts _ _ ha] at h; cases h
    simp only [if_neg ha]
    rfl

/-- In a busy CORE they are the command's meaning and then the micro-step's. -/
theorem specStep_busy {s : State} {a : Input} (hr : a.rst = false) (hp : s.phase ≠ .idle) :
    specStep Config.tables s a = microOf s.phase s.rnd.toFin (present (decodeCmd a.cmd) id s) := by
  simp only [specStep, hr, Bool.false_eq_true, if_false, specRaised_eq, specMove_busy hp, present]
  cases raised (decodeCmd a.cmd) s with
  | none => simp
  | some v => exact (microOf_raiseFault _ _ v s).symm

/-! ## The line that is presented

A step moves past its line, and nothing it does reads the lines that follow, so the line may as well be taken off first. -/

theorem advance_acceptLine (a : Input) (c : Cmd) (s : State) : (acceptLine a c s).advance = acceptLine a c s.advance := by
  cases c <;> rfl

theorem advance_microOf (p : Phase) (i : Fin 4) (s : State) : (microOf p i s).advance = microOf p i s.advance := by
  cases p with
  | idle => rfl
  | ks | enc | dec =>
    simp only [microOf, ksMicroStep, encMicroStep, decMicroStep, finishRound]
    split <;> rfl

/-- Presenting a command commutes with whatever leaves the registers that the checks read. -/
theorem advance_present (c : Cmd) {f : State → State} (hf : ∀ s : State, (f s).advance = f s.advance) (s : State) :
    (present c f s).advance = present c f s.advance := by
  have hraised : raised c s.advance = raised c s := rfl
  have haccepts : accepts c s.advance = accepts c s := rfl
  unfold present
  rw [hraised, haccepts]
  cases raised c s with
  | some v => rfl
  | none =>
    cases accepts c s with
    | true => exact hf s
    | false => rfl

/-- An acceptance matters only where the command is accepted. -/
theorem present_congr {c : Cmd} {f g : State → State} {s : State} (h : accepts c s = true → f s = g s) :
    present c f s = present c g s := by
  cases ha : accepts c s with
  | true => rw [present_of_accepts ha, present_of_accepts ha, h ha]
  | false => rw [present_of_not_accepts ha f, present_of_not_accepts ha g]

/-- `s` with its script replaced. -/
def State.withScript (s : State) (script : List Input) : State := { s with script := script }

/-- A step of an idle CORE, with its line `a` taken off. -/
theorem step_line_idle {s : State} {a : Input} (rest : List Input) (hr : a.rst = false) (hp : s.phase = .idle)
    (h0 : s.rnd = 0) : step (s.withScript (a :: rest)) =
      .next (present (decodeCmd a.cmd) (acceptLine a (decodeCmd a.cmd)) (s.withScript rest)) := by
  rw [step_idle (s.withScript (a :: rest)) hr hp h0, acceptOf_eq_acceptLine, advance_present _ (advance_acceptLine _ _)]
  rfl

/-- A step of a busy CORE, with its line `a` taken off. -/
theorem step_line_busy {s : State} {a : Input} (rest : List Input) (hr : a.rst = false) (hp : s.phase ≠ .idle) :
    step (s.withScript (a :: rest)) =
      .next (microOf s.phase s.rnd.toFin (present (decodeCmd a.cmd) id (s.withScript rest))) := by
  rw [step_busy (s.withScript (a :: rest)) hr hp, advance_microOf, advance_present (f := id) _ fun _ => rfl]
  rfl

theorem step_line_illegal {s : State} {a : Input} (rest : List Input) (hr : a.rst = false) (hp : s.phase = .idle)
    (h0 : s.rnd ≠ 0) : step (s.withScript (a :: rest)) = .refused .illegalUstep :=
  step_illegal (s.withScript (a :: rest)) hr hp h0

theorem step_line_reset {s : State} {a : Input} (rest : List Input) (hr : a.rst = true) :
    step (s.withScript (a :: rest)) = .next (State.afterReset (s.resets + 1) rest) :=
  step_reset (s.withScript (a :: rest)) hr

/-- Two lines without a reset whose commands do the same to the state step alike. -/
theorem step_line_congr {s : State} {a b : Input} {rest : List Input} (ha : a.rst = false) (hb : b.rst = false)
    (h : ∀ t : State, t = s.withScript rest →
      present (decodeCmd a.cmd) (acceptLine a (decodeCmd a.cmd)) t =
        present (decodeCmd b.cmd) (acceptLine b (decodeCmd b.cmd)) t) :
    step (s.withScript (a :: rest)) = step (s.withScript (b :: rest)) := by
  by_cases hp : s.phase = .idle
  · by_cases h0 : s.rnd = 0
    · rw [step_line_idle rest ha hp h0, step_line_idle rest hb hp h0, h _ rfl]
    · rw [step_line_illegal rest ha hp h0, step_line_illegal rest hb hp h0]
  · have hbusy := h _ rfl
    rw [present_busy (decodeCmd a.cmd) _ (s.withScript rest) hp,
      present_busy (decodeCmd b.cmd) (acceptLine b _) (s.withScript rest) hp] at hbusy
    rw [step_line_busy rest ha hp, step_line_busy rest hb hp, hbusy]

/-! ## The obligations -/

/-- Settles O29: the pseudocode under reset, in an idle CORE and in a busy one. -/
theorem stepIsThePseudocode : Obligations.StepIsThePseudocode := by
  intro s h
  cases hr : s.input.rst with
  | true =>
    rw [step_reset s hr, specStep, if_pos hr]
    rfl
  | false =>
    by_cases hp : s.phase = .idle
    · have h0 : s.rnd = 0 := h.elim (fun hrst => by rw [hr] at hrst; cases hrst) fun hidle => hidle hp
      rw [step_idle s hr hp h0, specStep_idle hr hp, acceptOf_eq_acceptLine]
      rfl
    · rw [step_busy s hr hp, specStep_busy hr hp]
      rfl

/-- Settles O38: a reset looks at no port, a fault ignores the command, and an operand port enters by its acceptance. -/
theorem ignoredPortsDoNotMatter : Obligations.IgnoredPortsDoNotMatter := by
  intro s a b rest
  refine ⟨fun ha hb => ?_, fun ha hb hc hkey henc hdec => ?_, fun ha hb hf => ?_⟩
  · exact (step_line_reset (s := s) rest ha).trans (step_line_reset rest hb).symm
  · refine step_line_congr ha hb fun t ht => ?_
    have haccepts : ∀ c, accepts c t = accepts c s := fun c => by rw [ht]; rfl
    rw [← hc]
    refine present_congr fun hacc => ?_
    rw [haccepts] at hacc
    cases hd : decodeCmd a.cmd with
    | nop => rfl
    | loadkey => simp only [acceptLine, hkey ((decodeCmd_eq_loadkey_iff _).1 hd) (hd ▸ hacc)]
    | encrypt => simp only [acceptLine, henc ((decodeCmd_eq_encrypt_iff _).1 hd) (hd ▸ hacc)]
    | decrypt => simp only [acceptLine, hdec ((decodeCmd_eq_decrypt_iff _).1 hd) (hd ▸ hacc)]
  · refine step_line_congr ha hb fun t ht => ?_
    have hft : t.fault = true := by rw [ht]; exact hf
    rw [present_of_fault hft, present_of_fault hft]

end Sys2Proof.Machine
end

section
/-! PROOFS. Which step writes which register (10_state.md R20 to R28, 44_controller.md R168), what the ports show of it
(R30, R31), and the obligations about them. -/

namespace Sys2Proof.Machine

/-! ## Micro-steps by phase -/

theorem microOf_ks (i : Fin 4) (s : State) : microOf .ks i s = ksMicroStep i s := rfl

theorem microOf_enc (i : Fin 4) (s : State) :
    microOf .enc i s = finishRound i (encRound Config.tables (s.l, s.r) (s.rk.get i)) s := rfl

theorem microOf_dec (i : Fin 4) (s : State) :
    microOf .dec i s = finishRound i (decRound Config.tables (s.l, s.r) (s.rk.get (Fin.rev i))) s := by
  rw [fin4_rev]; rfl

/-- Every micro-step but the last is one of the first three. -/
theorem lt_three_iff (i : Fin 4) : i.val < 3 ↔ i.val ≠ 3 := by
  omega

theorem microOf_rk (p : Phase) (i j : Fin 4) (s : State) :
    (microOf p i s).rk.get j = if p = .ks ∧ i = j then ksrk s.key j else s.rk.get j := by
  cases p with
  | idle => simp [microOf]
  | ks =>
    rw [microOf_ks, ksMicroStep_rk]
    by_cases hij : i = j
    · simp [hij]
    · simp [hij, get_set_other _ _ _ _ (Ne.symm hij)]
  | enc => simp [microOf_enc]
  | dec => simp [microOf_dec]

theorem microOf_kvalid (p : Phase) (i : Fin 4) (s : State) :
    (microOf p i s).kvalid = if p = .ks ∧ i.val = 3 then true else s.kvalid := by
  cases p with
  | idle => simp [microOf]
  | ks =>
    by_cases hlast : i.val = 3 <;> simp [microOf_ks, lt_three_iff, hlast]
  | enc => simp [microOf_enc]
  | dec => simp [microOf_dec]

/-- `DONE`, `DOUT` and its mark are written by the last round only (R23, R26). -/
theorem microOf_completion (p : Phase) (i : Fin 4) (s : State) :
    (microOf p i s).done = (if (p = .enc ∨ p = .dec) ∧ i.val = 3 then true else s.done) ∧
    (microOf p i s).doutHeld = (if (p = .enc ∨ p = .dec) ∧ i.val = 3 then true else s.doutHeld) ∧
    (microOf p i s).dout =
      if (p = .enc ∨ p = .dec) ∧ i.val = 3 then (microOf p i s).l ++ (microOf p i s).r else s.dout := by
  cases p with
  | idle => simp [microOf]
  | ks => simp [microOf_ks]
  | enc => by_cases hlast : i.val = 3 <;> simp [microOf_enc, lt_three_iff, hlast, joinBlock]
  | dec => by_cases hlast : i.val = 3 <;> simp [microOf_dec, lt_three_iff, hlast, joinBlock]

/-! ## Faults of a step (60_exceptions.md R193 to R195) -/

theorem command_eq (s : State) : s.command = decodeCmd s.input.cmd := rfl

/-- A step without a reset whose command raises nothing leaves `FAULT` and `CAUSE`. -/
theorem step_faults_of_none {s t : State} (hr : s.input.rst = false) (h : step s = .next t)
    (hn : raised s.command s = none) : t.fault = s.fault ∧ t.cause = s.cause := by
  simpa only [hn] using step_faults s t hr h

theorem step_faults_of_raised {s t : State} {v : Violation} (hr : s.input.rst = false) (h : step s = .next t)
    (hv : raised s.command s = some v) : t.fault = true ∧ t.cause = v.code := by
  simpa only [hv] using step_faults s t hr h

/-- A host that keeps HD2 and HD3 in this step raises nothing (70_reset_and_hazards.md R225). -/
theorem raised_none_of_duties {s : State} (h2 : s.KeepsHD2) (h3 : s.KeepsHD3) : raised s.command s = none := by
  refine raised_eq_none (fun hp => ?_) fun _ => h3
  by_contra hc
  have hb := h2 hc
  simp [State.busy, hp] at hb

theorem step_safe {s t : State} (hs : s.Safe) (hd : s.input.rst = false → s.KeepsHD2 ∧ s.KeepsHD3)
    (h : step s = .next t) : t.Safe := by
  cases hr : s.input.rst with
  | true => exact (step_reset_clears_fault hr h).1
  | false =>
    obtain ⟨h2, h3⟩ := hd hr
    exact (step_faults_of_none hr h (raised_none_of_duties h2 h3)).1.trans hs

theorem run_safe (n : Nat) (s t : State) (hs : s.Safe) (hd : s.KeepsDuties n) (h : runFor n s = .next t) : t.Safe := by
  induction n generalizing s with
  | zero => cases h; exact hs
  | succ n ih =>
    obtain ⟨u, hu, hrun⟩ := run_succ_next n s t h
    obtain ⟨hnow, hlater⟩ := hd
    exact ih u (step_safe hs hnow hu) (hlater u hu) hrun

/-! ## Idle runs (R161, R197) -/

/-- An idle CORE under NOPs, or with a fault, only moves past its lines. -/
theorem run_quiet (n : Nat) (s : State) (hp : s.phase = .idle) (h0 : s.rnd = 0) (hn : s.NoReset n)
    (hq : s.fault = true ∨ ∀ k < n, decodeCmd (s.inputAt k).cmd = .nop) :
    runFor n s = .next { s with script := s.script.drop n } := by
  induction n generalizing s with
  | zero => rfl
  | succ n ih =>
    have hnow : s.fault = true ∨ s.command = .nop := hq.imp id fun hall => hall 0 (Nat.succ_pos n)
    have hstep := step_quiet s (hn 0 (Nat.succ_pos n)) hp h0 hnow
    obtain ⟨_, hn'⟩ := noReset_cons s _ n hn hstep
    have hrest := ih s.advance hp h0 hn' (hq.imp id fun hall k hk => by
      rw [inputAt_advance]; exact hall (k + 1) (by omega))
    refine (runFor_cons n s _ _ hstep hrest).trans ?_
    simp [State.advance]

/-! ## The ports (R27, R30, R31) -/

theorem doutPort_of_held {s : State} (h : s.doutHeld = true) (n : Nat) : s.doutPort n = s.dout := if_pos h

theorem doutPort_congr {s t : State} (hheld : t.doutHeld = s.doutHeld) (hdout : t.dout = s.dout) (n : Nat) :
    t.doutPort n = s.doutPort n := by
  rw [State.doutPort, State.doutPort, hheld, hdout]

/-- The two high bits of STATUS, above its four one-bit flags. -/
theorem status_cause (s : State) : s.status.extractLsb' 4 2 = s.cause := by
  rw [State.status, BitVec.extractLsb'_append_eq_of_le (by decide), BitVec.extractLsb'_append_eq_of_le (by decide),
    BitVec.extractLsb'_append_eq_of_le (by decide)]
  exact BitVec.extractLsb'_append_eq_left

/-- What a step without a reset does to `DOUT` and its mark. -/
theorem step_completion {s t : State} (hr : s.input.rst = false) (h : step s = .next t) :
    t.doutHeld = (if (s.phase = .enc ∨ s.phase = .dec) ∧ s.rnd.toNat = 3 then true else s.doutHeld) ∧
    t.dout = if (s.phase = .enc ∨ s.phase = .dec) ∧ s.rnd.toNat = 3 then t.l ++ t.r else s.dout := by
  rcases step_outcomes h with ⟨hrst, _⟩ | ⟨_, hp, _, _, rfl⟩ | ⟨_, hp, _, _, rfl⟩ | ⟨_, _, _, rfl⟩
  · rw [hr] at hrst; cases hrst
  · obtain ⟨_, _, _, hdout, hheld, _⟩ := acceptOf_frame s.command s
    simp [hp, hdout, hheld]
  · simp [hp]
  · obtain ⟨_, hheld, hdout⟩ := microOf_completion s.phase s.rnd.toFin (present s.command id s)
    rw [present_id_doutHeld] at hheld
    rw [present_id_dout] at hdout
    exact ⟨hheld, hdout⟩

theorem step_done {s t : State} (h : step s = .next t) :
    t.done = if s.input.rst = true then false
      else if accepts s.command s = true then false
      else if (s.phase = .enc ∨ s.phase = .dec) ∧ s.rnd.toNat = 3 then true
      else s.done := by
  rcases step_outcomes h with ⟨hr, rfl⟩ | ⟨hr, _, _, ha, rfl⟩ | ⟨hr, hp, _, ha, rfl⟩ | ⟨hr, _, ha, rfl⟩
  · simp [hr, hostReset]
  · have hc : s.command ≠ .nop := ((accepts_iff _ _).1 ha).1
    simp [hr, ha, (acceptOf_control hc s).1]
  · simp [hr, ha, hp]
  · obtain ⟨hdone, _, _⟩ := microOf_completion s.phase s.rnd.toFin (present s.command id s)
    rw [present_id_done] at hdone
    simpa [hr, ha] using hdone

theorem step_kvalid {s t : State} (h : step s = .next t) :
    t.kvalid = if s.input.rst = true then false
      else if s.command = .loadkey ∧ accepts s.command s = true then false
      else if s.phase = .ks ∧ s.rnd.toNat = 3 then true
      else s.kvalid := by
  rcases step_outcomes h with ⟨hr, rfl⟩ | ⟨hr, hp, _, ha, rfl⟩ | ⟨hr, hp, _, ha, rfl⟩ | ⟨hr, _, ha, rfl⟩
  · simp [hr, hostReset]
  · cases hc : s.command <;> rw [hc] at ha <;> simp [hr, hp, ha, acceptOf]
  · simp [hr, ha, hp]
  · simp [hr, ha, microOf_kvalid]

theorem step_key {s t : State} (hr : s.input.rst = false) (h : step s = .next t) :
    t.key = if s.command = .loadkey ∧ accepts s.command s = true then s.input.keyIn else s.key := by
  rcases step_outcomes h with ⟨hrst, _⟩ | ⟨_, _, _, ha, rfl⟩ | ⟨_, _, _, ha, rfl⟩ | ⟨_, _, ha, rfl⟩
  · rw [hr] at hrst; cases hrst
  · cases hc : s.command <;> rw [hc] at ha <;> simp [ha, acceptOf, State.keyOperand]
  · simp [ha]
  · simp [ha, microOf_frame]

theorem step_rk {s t : State} (hr : s.input.rst = false) (h : step s = .next t) (i : Fin 4) :
    t.rk.get i = if s.phase = .ks ∧ s.rnd.toFin = i then ksrk s.key i else s.rk.get i := by
  rcases step_outcomes h with ⟨hrst, _⟩ | ⟨_, hp, _, _, rfl⟩ | ⟨_, hp, _, _, rfl⟩ | ⟨_, _, _, rfl⟩
  · rw [hr] at hrst; cases hrst
  · obtain ⟨_, _, hrk, _⟩ := acceptOf_frame s.command s
    simp [hp, hrk]
  · simp [hp]
  · simp [microOf_rk]

/-- `L` and `R` of a busy step are the micro-step's. -/
theorem step_halves_busy {s t : State} (hr : s.input.rst = false) (hp : s.phase ≠ .idle) (h : step s = .next t) :
    (t.l, t.r) = ((microOf s.phase s.rnd.toFin (present s.command id s)).l,
      (microOf s.phase s.rnd.toFin (present s.command id s)).r) := by
  cases (step_busy s hr hp).symm.trans h
  rfl

theorem step_halves_enc {s t : State} (hr : s.input.rst = false) (hp : s.phase = .enc) (h : step s = .next t) :
    (t.l, t.r) = encRound Config.tables (s.l, s.r) (s.rk.get s.rnd.toFin) := by
  rw [step_halves_busy hr (by rw [hp]; decide) h, hp, microOf_enc]
  simp

theorem step_halves_dec {s t : State} (hr : s.input.rst = false) (hp : s.phase = .dec) (h : step s = .next t) :
    (t.l, t.r) = decRound Config.tables (s.l, s.r) (s.rk.get (Fin.rev s.rnd.toFin)) := by
  rw [step_halves_busy hr (by rw [hp]; decide) h, hp, microOf_dec]
  simp

/-- Acceptance of ENCRYPT or DECRYPT takes the block's halves. -/
theorem step_halves_accepts {s t : State} (hr : s.input.rst = false) (hn : needsKey s.command = true)
    (ha : accepts s.command s = true) (h : step s = .next t) : (t.l, t.r) = splitBlock s.input.din := by
  rcases step_outcomes h with ⟨hrst, _⟩ | ⟨_, _, _, _, rfl⟩ | ⟨_, _, _, hno, _⟩ | ⟨_, _, hno, _⟩
  · rw [hr] at hrst; cases hrst
  · cases hc : s.command with
    | nop | loadkey => rw [hc] at hn; cases hn
    | encrypt | decrypt => rfl
  · rw [ha] at hno; cases hno
  · rw [ha] at hno; cases hno

/-- Every other step leaves `L` and `R`. -/
theorem step_halves_frame {s t : State} (hr : s.input.rst = false) (he : s.phase ≠ .enc) (hd : s.phase ≠ .dec)
    (hn : ¬(needsKey s.command = true ∧ accepts s.command s = true)) (h : step s = .next t) : t.l = s.l ∧ t.r = s.r := by
  rcases step_outcomes h with ⟨hrst, _⟩ | ⟨_, _, _, ha, rfl⟩ | ⟨_, _, _, _, rfl⟩ | ⟨_, hp, _, rfl⟩
  · rw [hr] at hrst; cases hrst
  · cases hc : s.command with
    | nop | loadkey => exact ⟨rfl, rfl⟩
    | encrypt | decrypt => rw [hc] at hn ha; exact absurd ⟨rfl, ha⟩ hn
  · simp
  · cases hph : s.phase with
    | idle => exact absurd hph hp
    | ks => simp [microOf_ks]
    | enc => exact absurd hph he
    | dec => exact absurd hph hd

/-! ## Sequencing (R24, 44_controller.md R168) -/

/-- A busy step goes on to the next micro-step, or ends the operation after the last. -/
theorem step_sequencing_busy {s t : State} (hr : s.input.rst = false) (hp : s.phase ≠ .idle) (h : step s = .next t) :
    t.phase = (if s.rnd.toNat < 3 then s.phase else .idle) ∧ t.rnd = (if s.rnd.toNat < 3 then s.rnd + 1 else 0) := by
  cases (step_busy s hr hp).symm.trans h
  obtain ⟨hphase, hrnd⟩ := microOf_sequencing s.phase s.rnd.toFin (present s.command id s) hp
  rw [present_id_phase] at hphase
  exact ⟨hphase, hrnd⟩

/-! ## The obligations -/

/-- Settles O17: NOP's meaning, the quiet run, a busy step under NOP, and no fault by NOP. -/
theorem nopWritesNothing : Obligations.NopWritesNothing := by
  refine ⟨fun s => rfl, fun n s hp h0 hn hnop => run_quiet n s hp h0 hn (.inr hnop), fun s hr hc hp => ?_,
    fun s t hr hc h => step_faults_of_none hr h (by rw [hc]; exact raised_nop s)⟩
  obtain ⟨u, hu, _, hx⟩ := fetchUstep_busy s hp
  refine ⟨u, hu, ?_⟩
  rw [step_busy s hr hp, hc, present_nop_id, hx, andThen]

/-- Settles O30: the busy step's sequencing, and the outcomes of an idle one. -/
theorem sequencingIsFixed : Obligations.SequencingIsFixed := by
  intro s t h
  refine ⟨fun hr => ?_, fun hr hp hlt => ?_, fun hr hp hlast => ?_, fun hr hp ha => ?_, fun hr hp ha => ?_⟩
  · rw [step_of_reset hr h]; exact ⟨rfl, rfl⟩
  · obtain ⟨hphase, hrnd⟩ := step_sequencing_busy hr hp h
    rw [if_pos hlt] at hphase hrnd
    exact ⟨hphase, hrnd ▸ toNat_succ_of_lt (i := s.rnd.toFin) hlt⟩
  · obtain ⟨hphase, hrnd⟩ := step_sequencing_busy hr hp h
    have hno : ¬s.rnd.toNat < 3 := by omega
    exact ⟨by rw [hphase, if_neg hno], by rw [hrnd, if_neg hno]⟩
  · rcases step_outcomes h with ⟨hrst, _⟩ | ⟨_, _, _, _, rfl⟩ | ⟨_, _, _, hno, _⟩ | ⟨_, hbusy, _⟩
    · rw [hr] at hrst; cases hrst
    · have hc : s.command ≠ .nop := ((accepts_iff _ _).1 ha).1
      exact ⟨(acceptOf_phase_code hc s).trans (encodeCmd_decodeCmd _), (acceptOf_control hc s).2⟩
    · rw [ha] at hno; cases hno
    · exact absurd hp hbusy
  · rcases step_outcomes h with ⟨hrst, _⟩ | ⟨_, _, _, hyes, _⟩ | ⟨_, _, _, _, rfl⟩ | ⟨_, hbusy, _⟩
    · rw [hr] at hrst; cases hrst
    · rw [ha] at hyes; cases hyes
    · simp [hp]
    · exact absurd hp hbusy

/-- Settles O31: one lemma for each register. -/
theorem dataRegistersHaveTheirWriters : Obligations.DataRegistersHaveTheirWriters := fun _ _ hr h =>
  ⟨step_key hr h, step_rk hr h, fun he hd hn => step_halves_frame hr he hd hn h,
    fun hn ha => step_halves_accepts hr hn ha h, fun hp => step_halves_enc hr hp h, fun hp => step_halves_dec hr hp h,
    (step_completion hr h).2⟩

/-- Settles O32: one lemma for each flag. -/
theorem flagsHaveTheirWriters : Obligations.FlagsHaveTheirWriters := fun _ _ h => ⟨step_kvalid h, step_done h⟩

/-- Settles O33: which fault the command on the port raises. -/
theorem faultsAreRaisedExactlyWhen : Obligations.FaultsAreRaisedExactlyWhen := by
  intro s t hr hf h
  have hnop : s.command = .nop ↔ s.input.cmd = 0b00#2 := decodeCmd_eq_nop_iff _
  have hkey : needsKey s.command = true ↔ s.input.cmd = 0b10#2 ∨ s.input.cmd = 0b11#2 := needsKey_decodeCmd_iff _
  refine ⟨fun ⟨hp, hc⟩ => ?_, fun ⟨hp, hc, hk⟩ => ?_, fun hb hn => ?_⟩
  · exact step_faults_of_raised hr h (raised_busy hf (mt hnop.1 hc) hp)
  · exact step_faults_of_raised hr h (raised_nokey hf hp (hkey.2 hc) hk)
  · have hquiet : raised s.command s = none := by
      refine raised_eq_none (fun hp => ?_) fun hp hneeds => ?_
      · exact hnop.2 (by_contra fun hc => hb ⟨hp, hc⟩)
      · cases hk : s.kvalid with
        | true => rfl
        | false => exact absurd ⟨hp, hkey.1 hneeds, hk⟩ hn
    obtain ⟨hfault, hcause⟩ := step_faults_of_none hr h hquiet
    exact ⟨hfault.trans hf, hcause⟩

/-- Settles O36: the quiet run of a faulted CORE. -/
theorem faultedIdleCoreIsInert : Obligations.FaultedIdleCoreIsInert := fun n s hp h0 hf hn =>
  run_quiet n s hp h0 hn (.inl hf)

/-- Settles O37: a dutiful step raises nothing, by induction on the number of steps. -/
theorem dutifulHostRaisesNoFault : Obligations.DutifulHostRaisesNoFault := run_safe

/-- Settles O51: the bits of the view, and that `DONE` stands in phase IDLE only. -/
theorem statusShowsTheFlags : Obligations.StatusShowsTheFlags := by
  refine ⟨fun s => ?_, fun s hinv hboth => ?_, by decide⟩
  · refine ⟨?_, ?_, ?_, ?_, status_cause s, decide_eq_true_iff⟩
    all_goals
      rw [State.status]
      simp only [BitVec.getLsbD_append]
      simp
  · obtain ⟨⟨_, _, _, _, _, hidle⟩, _, _⟩ := hinv
    obtain ⟨hbusy, hdone⟩ := hboth
    simp [State.busy, hidle hdone] at hbusy

/-- Settles O52: the last round marks `DOUT` as written, every other step leaves both, and `DONE` says it is written. -/
theorem doutShowsTheLastResult : Obligations.DoutShowsTheLastResult := by
  refine ⟨fun s t hr hp hlast h => ?_, fun s t hr hno h => ?_, fun s hinv hdone => ?_⟩
  · obtain ⟨hheld, hdout⟩ := step_completion hr h
    rw [if_pos ⟨hp, hlast⟩] at hheld hdout
    have hbusy : s.phase ≠ .idle := by rcases hp with hp | hp <;> rw [hp] <;> decide
    refine ⟨?_, fun n => (doutPort_of_held hheld n).trans hdout⟩
    simp [step_done h, hr, accepts_busy hbusy, hp, hlast]
  · obtain ⟨hheld, hdout⟩ := step_completion hr h
    rw [if_neg hno] at hheld hdout
    exact doutPort_congr hheld hdout
  · obtain ⟨_, _, hheld⟩ := hinv
    exact doutPort_of_held (hheld hdone)

end Sys2Proof.Machine
end

section
/-! PROOFS. The whole operations that remain: DECRYPT and the round trip (44_controller.md R172), the end of every operation
(R173), the pseudo-commands (30_encoding.md R77) and a reset in the middle (70_reset_and_hazards.md R221); the obligations
about them. -/

namespace Sys2Proof.Machine

/-! ## DECRYPT (R172) -/

/-- A round of either direction carries `RoundsDone` on: only the new halves depend on the direction. -/
theorem roundsDone_step {p : Phase} (hp : p = .enc ∨ p = .dec) {s u v : State} {lr lr' : Half × Half} {n : Nat}
    (hn : n < 4) (hr : u.input.rst = false) (h : RoundsDone p s lr n u) (hv : step u = .next v)
    (hhalves : (v.l, v.r) = lr') : RoundsDone p s lr' (n + 1) v := by
  have hrnd : u.rnd.toNat = n := toNat_of_eq_ofNat hn h.rnd
  have hphase : u.phase = p := by rw [h.phase, if_pos hn]
  have hbusy : u.phase ≠ .idle := by rw [hphase]; rcases hp with rfl | rfl <;> decide
  have hks : u.phase ≠ .ks := by rw [hphase]; rcases hp with rfl | rfl <;> decide
  have hround : u.phase = .enc ∨ u.phase = .dec := by rw [hphase]; exact hp
  have hacc : accepts u.command u = false := accepts_busy hbusy
  have hlt : n + 1 < 4 ↔ ¬n = 3 := by omega
  have hlt' : n < 3 ↔ ¬n = 3 := by omega
  obtain ⟨hphase', hrnd'⟩ := step_sequencing_busy hr hbusy hv
  obtain ⟨hheld, hdout⟩ := step_completion hr hv
  constructor
  case key => simp [step_key hr hv, hacc, h.key]
  case rk => exact roundKeys_ext _ _ fun i => by simp [step_rk hr hv, hks, h.rk]
  case kvalid => simp [step_kvalid hv, hr, hacc, hks, h.kvalid]
  case halves => exact hhalves
  case phase => rw [hphase', hrnd, hphase]; simp only [hlt, hlt']
  case rnd => rw [hrnd', hrnd, h.rnd, nextRnd_eq_ofNat_succ hn]
  case done => simp [step_done hv, hr, hacc, hround, hrnd, h.done, hn, hlt]
  case dout => simp [hdout, hround, hrnd, h.dout, hn, hlt, ← hhalves, joinBlock]
  case doutHeld => simp [hheld, hround, hrnd, h.doutHeld, hn, hlt]

/-- DEC micro-step `n` performs round `n` under `RK[3 - n]`. -/
theorem roundsDone_step_dec {s u : State} {lr : Half × Half} {n : Nat} (hn : n < 4) (hr : u.input.rst = false)
    (h : RoundsDone .dec s lr n u) :
    ∃ v, step u = .next v ∧
      RoundsDone .dec s (decRound Config.tables lr (s.rk.get (3 - Fin.ofNat 4 n))) (n + 1) v := by
  have hphase : u.phase = .dec := by rw [h.phase, if_pos hn]
  have hround : Fin.rev u.rnd.toFin = 3 - Fin.ofNat 4 n := by rw [fin4_rev, h.rnd]; rfl
  have hv := step_busy u hr (by rw [hphase]; decide)
  have hhalves := step_halves_dec hr hphase hv
  rw [h.halves, h.rk, hround] at hhalves
  exact ⟨_, hv, roundsDone_step (.inr rfl) hn hr h hv hhalves⟩

/-- An idle, unfaulted, keyed CORE accepts ENCRYPT and DECRYPT. -/
theorem accepts_keyed {s : State} (hp : s.phase = .idle) (hf : s.fault = false) (hk : s.kvalid = true)
    (hc : needsKey s.command = true) : accepts s.command s = true := by
  have hne : s.command ≠ .nop := fun he => by rw [he] at hc; cases hc
  exact (accepts_iff _ _).2 ⟨hne, hp, hf, fun _ => hk⟩

/-- The run of DECRYPT from an idle, unfaulted, keyed state: the acceptance and `n` rounds. -/
theorem run_decrypt {s : State} (hp : s.phase = .idle) (h0 : s.rnd = 0) (hf : s.fault = false) (hk : s.kvalid = true)
    (hn : s.NoReset 5) (hc : s.input.cmd = 0b11#2) {n : Nat} (hm : n ≤ 4) :
    ∃ u, runFor (n + 1) s = .next u ∧ RoundsDone .dec s (decPair Config.tables s.rk s.input.din n) n u := by
  have hcmd : s.command = .decrypt := by rw [command_eq, hc]; rfl
  refine run_of_accepts (P := fun n => RoundsDone .dec s (decPair Config.tables s.rk s.input.din n) n) hn
    (accepts_keyed hp hf hk (by rw [hcmd]; rfl)) h0 ?_ (fun _ _ => roundsDone_step_dec) hm
  rw [hcmd]
  exact roundsDone_accept .dec s.blockOperand s

/-! ## No fault under NOPs -/

/-- Lines of NOP raise nothing (60_exceptions.md R193, R194). -/
theorem run_nops_fault (n : Nat) (s t : State) (hn : s.NoReset n) (hc : ∀ k < n, (s.inputAt k).cmd = 0b00#2)
    (h : runFor n s = .next t) : t.fault = s.fault := by
  induction n generalizing s with
  | zero => cases h; rfl
  | succ n ih =>
    obtain ⟨u, hu, hrun⟩ := run_succ_next n s t h
    obtain ⟨hr, hn'⟩ := noReset_cons s u n hn hu
    have hnop : s.command = .nop := (decodeCmd_eq_nop_iff _).2 (hc 0 (Nat.succ_pos n))
    have hrest := ih u hn' (fun k hk => by rw [inputAt_step s u k hu]; exact hc (k + 1) (by omega)) hrun
    exact hrest.trans (step_faults_of_none hr hu (by rw [hnop]; exact raised_nop s)).1

/-- Nor does a command that is accepted and followed by NOPs. -/
theorem run_accepted_fault (n : Nat) (s t : State) (hn : s.NoReset (n + 1)) (ha : accepts s.command s = true)
    (hc : ∀ k, 1 ≤ k → k ≤ n → (s.inputAt k).cmd = 0b00#2) (h : runFor (n + 1) s = .next t) : t.fault = s.fault := by
  obtain ⟨u, hu, hrun⟩ := run_succ_next n s t h
  obtain ⟨hr, hn'⟩ := noReset_cons s u n hn hu
  have hrest := run_nops_fault n u t hn'
    (fun k hk => by rw [inputAt_step s u k hu]; exact hc (k + 1) (by omega) (by omega)) hrun
  exact hrest.trans (step_faults_of_none hr hu (raised_of_accepts _ _ ha)).1

/-- After `n` steps the coming lines are those from line `n` on. -/
theorem inputAt_run (n k : Nat) (s t : State) (h : runFor n s = .next t) : t.inputAt k = s.inputAt (n + k) := by
  rw [State.inputAt, State.inputAt, run_script n s t h, List.getD_eq_getElem?_getD, List.getElem?_drop,
    ← List.getD_eq_getElem?_getD]

/-! ## The end of an operation (44_controller.md R173) -/

/-- What `n` of the remaining micro-steps of the operation running in `s` leave of the sequencing state. -/
structure MicroStepsTaken (s : State) (n : Nat) (u : State) : Prop where
  phase : u.phase = if s.rnd.toNat + n < 4 then s.phase else .idle
  rnd   : u.rnd.toNat = if s.rnd.toNat + n < 4 then s.rnd.toNat + n else 0

theorem microStepsTaken_zero (s : State) : MicroStepsTaken s 0 s := by
  have hlt := s.rnd.isLt
  constructor <;> simp <;> omega

theorem microStepsTaken_step {s u : State} {n : Nat} (hp : s.phase ≠ .idle) (hn : n < 4 - s.rnd.toNat)
    (hr : u.input.rst = false) (h : MicroStepsTaken s n u) : ∃ v, step u = .next v ∧ MicroStepsTaken s (n + 1) v := by
  have hin : s.rnd.toNat + n < 4 := by omega
  have hphase : u.phase = s.phase := by rw [h.phase, if_pos hin]
  have hrnd : u.rnd.toNat = s.rnd.toNat + n := by rw [h.rnd, if_pos hin]
  have hv := step_busy u hr (by rwa [hphase])
  refine ⟨_, hv, ?_⟩
  obtain ⟨hphase', hrnd'⟩ := step_sequencing_busy hr (by rwa [hphase]) hv
  rw [hrnd] at hphase' hrnd'
  have hlast : s.rnd.toNat + (n + 1) < 4 ↔ s.rnd.toNat + n < 3 := by omega
  constructor
  case phase => rw [hphase', hphase]; simp only [hlast]
  case rnd =>
    rw [hrnd']
    by_cases hlt : s.rnd.toNat + n < 3
    · rw [if_pos hlt, if_pos (hlast.2 hlt), ← Nat.add_assoc]
      rw [← hrnd] at hlt ⊢
      exact toNat_succ_of_lt (i := u.rnd.toFin) hlt
    · rw [if_neg hlt, if_neg (mt hlast.1 hlt)]; rfl

theorem run_micro_steps {s : State} (hp : s.phase ≠ .idle) (hn : s.NoReset (4 - s.rnd.toNat)) {n : Nat}
    (hm : n ≤ 4 - s.rnd.toNat) : ∃ u, runFor n s = .next u ∧ MicroStepsTaken s n u :=
  run_of_steps hn (microStepsTaken_zero s) (fun _ _ => microStepsTaken_step hp) hm

/-- All the remaining micro-steps end the operation. -/
theorem run_to_idle {s : State} (hp : s.phase ≠ .idle) (hn : s.NoReset (4 - s.rnd.toNat)) :
    ∃ t, runFor (4 - s.rnd.toNat) s = .next t ∧ t.phase = .idle ∧ t.rnd = 0 ∧
      t.script = s.script.drop (4 - s.rnd.toNat) := by
  obtain ⟨t, hrun, h⟩ := run_micro_steps hp hn (le_refl _)
  have hend : ¬s.rnd.toNat + (4 - s.rnd.toNat) < 4 := by omega
  exact ⟨t, hrun, by rw [h.phase, if_neg hend], BitVec.eq_of_toNat_eq (by rw [h.rnd, if_neg hend]; rfl),
    run_script _ s t hrun⟩

/-! ## The pseudo-commands (30_encoding.md R77) -/

theorem waitLines_idle {s : State} (hp : s.phase = .idle) : waitLines s = [] := by
  simp [waitLines, State.microStepsLeft, State.busy, hp]

theorem waitLines_busy {s : State} (hp : s.phase ≠ .idle) : waitLines s = List.replicate (4 - s.rnd.toNat) .nop := by
  simp [waitLines, State.microStepsLeft, State.busy, hp]

/-- After an acceptance four micro-steps are to come. -/
theorem waitLines_accepted {s : State} {a : Input} (hr : a.rst = false) (ha : accepts (decodeCmd a.cmd) s = true) :
    waitLines (specStep Config.tables s a) = [.nop, .nop, .nop, .nop] := by
  obtain ⟨hc, hp, _, _⟩ := (accepts_iff _ _).1 ha
  rw [specStep_idle hr hp, present_of_accepts ha]
  cases hd : decodeCmd a.cmd with
  | nop => exact absurd hd hc
  | loadkey | encrypt | decrypt => rfl

/-- A command that an idle CORE does not accept leaves it idle. -/
theorem waitLines_not_accepted {s : State} {a : Input} (hr : a.rst = false) (hp : s.phase = .idle)
    (ha : accepts (decodeCmd a.cmd) s = false) : waitLines (specStep Config.tables s a) = [] := by
  rw [specStep_idle hr hp, present_of_not_accepts ha]
  exact waitLines_idle (by rw [present_id_phase, hp])

/-- The lines placed come first. -/
theorem inputAt_withLines_nops (s : State) {m k : Nat} (hk : k < m) :
    (s.withLines (List.replicate m .nop)).inputAt k = Line.nop.input := by
  simp [State.inputAt, State.withLines, inputsOf, List.getElem?_append, hk]

/-- WAIT in a busy CORE: its NOPs end the operation and raise nothing. -/
theorem run_waitLines {s : State} (hp : s.phase ≠ .idle) :
    ∃ t, runFor (waitLines s).length (s.withLines (waitLines s)) = .next t ∧ t.phase = .idle ∧ t.script = s.script ∧
      t.fault = s.fault := by
  have hlines := waitLines_busy hp
  have hlen : (waitLines s).length = 4 - s.rnd.toNat := by rw [hlines, List.length_replicate]
  have hnops : ∀ k < 4 - s.rnd.toNat, (s.withLines (waitLines s)).inputAt k = Line.nop.input := fun k hk => by
    rw [hlines]; exact inputAt_withLines_nops s hk
  have hn : (s.withLines (waitLines s)).NoReset (4 - s.rnd.toNat) := fun k hk => by rw [hnops k hk]; rfl
  obtain ⟨t, hrun, hidle, _, hscript⟩ := run_to_idle (s := s.withLines (waitLines s)) hp hn
  refine ⟨t, by rw [hlen]; exact hrun, hidle, ?_, ?_⟩
  · rw [hscript]
    exact List.drop_left' (by rw [inputsOf, List.length_map, hlen]; rfl)
  · exact run_nops_fault _ (s.withLines (waitLines s)) t hn (fun k hk => by rw [hnops k hk]; rfl) hrun

/-! ## A reset in the middle of an operation (70_reset_and_hazards.md R221) -/

/-- The state after reset holds no key, whatever was loaded before. -/
theorem step_afterReset_nokey {n : Nat} {script : List Input} (hr : (State.afterReset n script).input.rst = false)
    (hc : needsKey (State.afterReset n script).command = true) :
    step (State.afterReset n script) = .next (raiseFault .nokey (State.afterReset n script)).advance := by
  rw [step_idle _ hr rfl rfl, present_of_raised (raised_nokey rfl rfl hc rfl)]

/-! ## The obligations -/

/-- Settles O45: the run of DECRYPT, whose halves after `n` rounds are the pairs of R145. -/
theorem decryptProducesThePlaintext : Obligations.DecryptProducesThePlaintext := by
  intro s hp h0 hf hk hn hc
  constructor
  · obtain ⟨t, hrun, h⟩ := run_decrypt hp h0 hf hk hn hc (le_refl 4)
    have hdout : t.dout = decryptBlock Config.tables s.rk s.input.din := h.dout.trans (joinBlock_decPair _ _ _)
    obtain ⟨hl, hr⟩ := Prod.mk.inj h.split_dout
    refine ⟨t, hrun, hdout, h.done, h.phase, h.rnd, hl, hr, h.key, h.rk, h.kvalid.trans hk, h.doutHeld,
      run_script 5 s t hrun, ?_⟩
    rintro ⟨⟨_, _, _, _, hkeys, _⟩, _, _⟩
    rw [hdout, rk_eq_keySchedule hkeys hk]
  · intro n hle
    obtain ⟨u, hrun, h⟩ := run_decrypt hp h0 hf hk hn hc hle
    exact ⟨u, hrun, h.halves⟩

/-- Settles O46: the run of ENCRYPT, then that of DECRYPT from its last state under the same round keys. -/
theorem roundTripAtThePorts : Obligations.RoundTripAtThePorts := by
  intro s hp h0 hf hk hn hc hc5 hnops hdin
  have hn5 : s.NoReset 5 := fun k hlt => hn k (by omega)
  obtain ⟨u, hrun, h⟩ := run_encrypt hp h0 hf hk hn5 hc (le_refl 4)
  have hacc : accepts s.command s = true := accepts_keyed hp hf hk ((needsKey_decodeCmd_iff _).2 (.inl hc))
  have hfu : u.fault = false := (run_accepted_fault 4 s u hn5 hacc
    (fun k h1 h4 => hnops k h1 (by omega) (by omega)) hrun).trans hf
  have hlines : ∀ k, u.inputAt k = s.inputAt (5 + k) := fun k => inputAt_run 5 k s u hrun
  have hinput : u.input = s.inputAt 5 := hlines 0
  have hku : u.kvalid = true := h.kvalid.trans hk
  have hnu : u.NoReset 5 := fun k hlt => by rw [hlines]; exact hn (5 + k) (by omega)
  have hcu : u.input.cmd = 0b11#2 := by rw [hinput, hc5]
  obtain ⟨t, hrun', h'⟩ := run_decrypt h.phase h.rnd hfu hku hnu hcu (le_refl 4)
  have haccu : accepts u.command u = true := accepts_keyed h.phase hfu hku ((needsKey_decodeCmd_iff _).2 (.inr hcu))
  have hft : t.fault = false := (run_accepted_fault 4 u t hnu haccu
    (fun k h1 h4 => by rw [hlines]; exact hnops (5 + k) (by omega) (by omega) (by omega)) hrun').trans hfu
  have hdout : t.dout = s.input.din :=
    calc t.dout = decryptBlock Config.tables u.rk u.input.din := h'.dout.trans (joinBlock_decPair _ _ _)
      _ = decryptBlock Config.tables s.rk u.dout := by rw [h.rk, hinput, hdin u hrun]
      _ = decryptBlock Config.tables s.rk (encryptBlock Config.tables s.rk s.input.din) := by
        rw [h.dout.trans (joinBlock_encPair _ _ _)]
      _ = s.input.din := decryptBlock_encryptBlock _ _ _
  exact ⟨t, (run_add 5 5 s u hrun).trans hrun', fun n => (doutPort_of_held h'.doutHeld n).trans hdout, h'.done, hft,
    h'.phase, h'.rk.trans h.rk, h'.key.trans h.key⟩

/-- The result of ENCRYPT (`10`) or DECRYPT (`11`), as a function of the command's code, the key and the block. -/
def blockResult (cmd : BitVec 2) (key : Key) (b : Block) : Block :=
  if cmd = 0b10#2 then encryptBlock Config.tables (keySchedule key) b
  else decryptBlock Config.tables (keySchedule key) b

/-- The five steps of ENCRYPT or DECRYPT in a state that meets the invariant. -/
theorem run_blockResult {s : State} (hinv : s.Inv) (hp : s.phase = .idle) (hf : s.fault = false) (hk : s.kvalid = true)
    (hn : s.NoReset 5) (hc : s.input.cmd = 0b10#2 ∨ s.input.cmd = 0b11#2) :
    ∃ t, runFor 5 s = .next t ∧ t.done = true ∧ ∀ n, t.doutPort n = blockResult s.input.cmd s.key s.input.din := by
  have h0 : s.rnd = 0 := hinv.1.1 hp
  rcases hc with hc | hc
  · obtain ⟨⟨t, hrun, _, hdone, _, _, _, _, _, _, _, hheld, _, hdout⟩, _⟩ :=
      encryptProducesTheCiphertext s hp h0 hf hk hn hc
    refine ⟨t, hrun, hdone, fun n => (doutPort_of_held hheld n).trans ?_⟩
    rw [hdout hinv, hc]; rfl
  · obtain ⟨⟨t, hrun, _, hdone, _, _, _, _, _, _, _, hheld, _, hdout⟩, _⟩ :=
      decryptProducesThePlaintext s hp h0 hf hk hn hc
    refine ⟨t, hrun, hdone, fun n => (doutPort_of_held hheld n).trans ?_⟩
    rw [hdout hinv, hc]; rfl

/-- Settles O47: both results are the same function of command, key and block. -/
theorem sameKeyAndBlockGiveSameResult : Obligations.SameKeyAndBlockGiveSameResult := by
  intro s s' hinv hinv' hp hp' hf hf' hk hk' hn hn' hc hcmd hdin hkey
  obtain ⟨t, hrun, hdone, hdout⟩ := run_blockResult hinv hp hf hk hn hc
  obtain ⟨t', hrun', hdone', hdout'⟩ := run_blockResult hinv' hp' hf' hk' hn' (hcmd ▸ hc)
  refine ⟨t, t', hrun, hrun', hdone, hdone', fun n => ?_⟩
  rw [hdout, hdout', hcmd, hkey, hdin]

/-- Settles O48: the sequencing state after all the micro-steps that remain, and after fewer. -/
theorem everyOperationEnds : Obligations.EveryOperationEnds := by
  refine fun s hp hn => ⟨run_to_idle hp hn, fun n hlt => ?_⟩
  obtain ⟨u, hrun, h⟩ := run_micro_steps hp hn hlt.le
  have hin : s.rnd.toNat + n < 4 := by omega
  exact ⟨u, hrun, by rw [h.phase, if_pos hin], by rw [h.rnd, if_pos hin]⟩

/-- Settles O49: WAIT's run, and the lines after a command by its acceptance. -/
theorem pseudoCommandsExpand : Obligations.PseudoCommandsExpand := by
  refine ⟨fun s hp => waitLines_idle hp, fun _ _ => rfl, fun s hp => ⟨fun l hl => ?_, run_waitLines hp⟩,
    fun s k ha => ?_, fun s b ha => ?_, fun s b ha => ?_, fun s k hp ha => ?_, fun s b hp ha => ?_, fun s b hp ha => ?_⟩
  · exact List.eq_of_mem_replicate hl
  · exact congrArg (Line.loadkey k :: ·) (waitLines_accepted rfl ha)
  · exact congrArg (Line.encrypt b :: ·) (waitLines_accepted rfl ha)
  · exact congrArg (Line.decrypt b :: ·) (waitLines_accepted rfl ha)
  · exact congrArg (Line.loadkey k :: ·) (waitLines_not_accepted rfl hp ha)
  · exact congrArg (Line.encrypt b :: ·) (waitLines_not_accepted rfl hp ha)
  · exact congrArg (Line.decrypt b :: ·) (waitLines_not_accepted rfl hp ha)

/-- Settles O50: the second step starts in the state after reset, which is idle and holds no key. -/
theorem resetAbandonsTheOperation : Obligations.ResetAbandonsTheOperation := by
  intro s hr hr1 hc
  have hfirst : step s = .next (State.afterReset (s.resets + 1) s.script.tail) := step_reset s hr
  have hline : (State.afterReset (s.resets + 1) s.script.tail).input = s.inputAt 1 := inputAt_step s _ 0 hfirst
  have hsecond := step_afterReset_nokey (by rw [hline, hr1]) ((needsKey_decodeCmd_iff _).2 (hline ▸ hc))
  exact ⟨_, runFor_cons 1 s _ _ hfirst (run_succ 0 _ _ hsecond), rfl, rfl, rfl, rfl, rfl, rfl⟩

end Sys2Proof.Machine
end
